-- ==== Sys2Proof/Word.lean ====
section
/-!
DEFINITION. The bit strings of the core.

Index order (00_scope.md R7): the spec's index 0 is the MOST significant bit, so
index i of an n-bit string is `BitVec.getMsbD i`.  The unsigned value `val`
(R8) is `BitVec.toNat`, and `bin_n(v)` is `BitVec.ofNat n v`.
-/

namespace Sys2Proof

/-- A memory word, an order, and the Order Tank: 17 bits (00_scope.md R6 `WORD_BITS`, `OT_BITS`). -/
abbrev Word := BitVec 17

/-- A word address, and the Sequence Control Register: 10 bits (R6 `ADDR_BITS`, `SCR_BITS`). -/
abbrev Addr := BitVec 10

/-- An opcode, and a teleprinter character code: 5 bits (R6 `OPC_BITS`). -/
abbrev Code := BitVec 5

/-- The Accumulator: 71 bits, index 0 the sign (R6 `ACC_BITS`, 10_state.md R22). -/
abbrev AccWord := BitVec 71

/-- The Multiplier and the Multiplicand: 35 bits (R6 `MR_BITS`, `MD_BITS`). -/
abbrev LongWord := BitVec 35

end Sys2Proof
end

