-- ==== Sys2Proof/Syntax.lean ====
section
/-!
DEFINITION. The alphabet, the length tag, the tape line record, and the orders: one constructor of
`Instr` for every row of spec/opcode_table.json.
-/

namespace Sys2Proof

/-- The 32-symbol alphabet of 30_encoding.md R75 (R76: "a 32-entry alphabet").  Every symbol is
named by its letter; the punctuation stand-ins are `bang` `!`, `hash` `#`, `star` `*`, `dot` `.`,
`at` `@` and `amp` `&`.  That a table other than R75's has these characters too, where R76 leaves some
open, is a DESIGN CHOICE (log 20), unsafe. -/
inductive Symbol where
  | P | Q | W | bang | E | R | T | Y
  | U | I | O | J | hash | S | Z | K
  | star | dot | F | at | D | H | N | M
  | amp | L | X | G | A | B | C | V
  deriving DecidableEq, Repr

/-- The operand-length tag of an order (30_encoding.md R73): `F` is short, `D` is long.  No order
reads it. -/
inductive Length where
  | short
  | long
  deriving DecidableEq, Repr

/-- What `parseInstructionLine` returns (30_encoding.md R84). -/
structure LineRecord where
  symbol : Symbol
  hasAddress : Bool
  address : Addr
  length : Length
  deriving DecidableEq, Repr

/-- What the grammar expected where a line is malformed (30_encoding.md R84, 60_exceptions.md R225). -/
inductive LineProblem where
  | emptyLine
  | addressAbove1023
  deriving DecidableEq, Repr

/-- Why a tape line fails to parse (30_encoding.md R84): its first character is no symbol, or it is
malformed. -/
inductive LineError where
  | unknownSymbol (c : Char)
  | malformed (expected : LineProblem)
  deriving DecidableEq, Repr

/-- The orders: what `decode` makes of a word (30_encoding.md R80).  `n` is the operand address and
`l` the length tag.  The seven handled orders are `orderA`, `orderS`, `orderT`, `orderU`, `orderG`,
`orderO` and `orderZ`; every other `order…` is an `Unhandled(s, n, l)`, and `unknownCode` is
`Unknown(c)`, whose remaining fields are kept so that no bit read is dropped (DESIGN CHOICE, log 11,
safe).  The spare bit is no
input of decode (R72, R80). -/
inductive Instr where
  | orderP (n : Addr) (l : Length)
  | orderQ (n : Addr) (l : Length)
  | orderW (n : Addr) (l : Length)
  | orderBang (n : Addr) (l : Length)
  | orderE (n : Addr) (l : Length)
  | orderR (n : Addr) (l : Length)
  | orderT (n : Addr) (l : Length)
  | orderY (n : Addr) (l : Length)
  | orderU (n : Addr) (l : Length)
  | orderI (n : Addr) (l : Length)
  | orderO (n : Addr) (l : Length)
  | orderJ (n : Addr) (l : Length)
  | orderHash (n : Addr) (l : Length)
  | orderS (n : Addr) (l : Length)
  | orderZ (n : Addr) (l : Length)
  | orderK (n : Addr) (l : Length)
  | orderStar (n : Addr) (l : Length)
  | orderDot (n : Addr) (l : Length)
  | orderF (n : Addr) (l : Length)
  | orderAt (n : Addr) (l : Length)
  | orderD (n : Addr) (l : Length)
  | orderH (n : Addr) (l : Length)
  | orderN (n : Addr) (l : Length)
  | orderM (n : Addr) (l : Length)
  | orderAmp (n : Addr) (l : Length)
  | orderL (n : Addr) (l : Length)
  | orderX (n : Addr) (l : Length)
  | orderG (n : Addr) (l : Length)
  | orderA (n : Addr) (l : Length)
  | orderB (n : Addr) (l : Length)
  | orderC (n : Addr) (l : Length)
  | orderV (n : Addr) (l : Length)
  | unknownCode (c : Code) (n : Addr) (l : Length)
  deriving DecidableEq, Repr

/-- The order that symbol `s` names, with its operand and length (30_encoding.md R80). -/
def Instr.ofSymbol (s : Symbol) (n : Addr) (l : Length) : Instr :=
  match s with
  | .P => .orderP n l
  | .Q => .orderQ n l
  | .W => .orderW n l
  | .bang => .orderBang n l
  | .E => .orderE n l
  | .R => .orderR n l
  | .T => .orderT n l
  | .Y => .orderY n l
  | .U => .orderU n l
  | .I => .orderI n l
  | .O => .orderO n l
  | .J => .orderJ n l
  | .hash => .orderHash n l
  | .S => .orderS n l
  | .Z => .orderZ n l
  | .K => .orderK n l
  | .star => .orderStar n l
  | .dot => .orderDot n l
  | .F => .orderF n l
  | .at => .orderAt n l
  | .D => .orderD n l
  | .H => .orderH n l
  | .N => .orderN n l
  | .M => .orderM n l
  | .amp => .orderAmp n l
  | .L => .orderL n l
  | .X => .orderX n l
  | .G => .orderG n l
  | .A => .orderA n l
  | .B => .orderB n l
  | .C => .orderC n l
  | .V => .orderV n l

/-- The symbol an order is written with; none for an opcode that has no symbol. -/
def Instr.symbol (i : Instr) : Option Symbol :=
  match i with
  | .orderP _ _ => some .P
  | .orderQ _ _ => some .Q
  | .orderW _ _ => some .W
  | .orderBang _ _ => some .bang
  | .orderE _ _ => some .E
  | .orderR _ _ => some .R
  | .orderT _ _ => some .T
  | .orderY _ _ => some .Y
  | .orderU _ _ => some .U
  | .orderI _ _ => some .I
  | .orderO _ _ => some .O
  | .orderJ _ _ => some .J
  | .orderHash _ _ => some .hash
  | .orderS _ _ => some .S
  | .orderZ _ _ => some .Z
  | .orderK _ _ => some .K
  | .orderStar _ _ => some .star
  | .orderDot _ _ => some .dot
  | .orderF _ _ => some .F
  | .orderAt _ _ => some .at
  | .orderD _ _ => some .D
  | .orderH _ _ => some .H
  | .orderN _ _ => some .N
  | .orderM _ _ => some .M
  | .orderAmp _ _ => some .amp
  | .orderL _ _ => some .L
  | .orderX _ _ => some .X
  | .orderG _ _ => some .G
  | .orderA _ _ => some .A
  | .orderB _ _ => some .B
  | .orderC _ _ => some .C
  | .orderV _ _ => some .V
  | .unknownCode _ _ _ => none

/-- The operand address field of an order (30_encoding.md R74). -/
def Instr.operand (i : Instr) : Addr :=
  match i with
  | .orderP n _ => n
  | .orderQ n _ => n
  | .orderW n _ => n
  | .orderBang n _ => n
  | .orderE n _ => n
  | .orderR n _ => n
  | .orderT n _ => n
  | .orderY n _ => n
  | .orderU n _ => n
  | .orderI n _ => n
  | .orderO n _ => n
  | .orderJ n _ => n
  | .orderHash n _ => n
  | .orderS n _ => n
  | .orderZ n _ => n
  | .orderK n _ => n
  | .orderStar n _ => n
  | .orderDot n _ => n
  | .orderF n _ => n
  | .orderAt n _ => n
  | .orderD n _ => n
  | .orderH n _ => n
  | .orderN n _ => n
  | .orderM n _ => n
  | .orderAmp n _ => n
  | .orderL n _ => n
  | .orderX n _ => n
  | .orderG n _ => n
  | .orderA n _ => n
  | .orderB n _ => n
  | .orderC n _ => n
  | .orderV n _ => n
  | .unknownCode _ n _ => n

/-- The length tag of an order (30_encoding.md R73). -/
def Instr.length (i : Instr) : Length :=
  match i with
  | .orderP _ l => l
  | .orderQ _ l => l
  | .orderW _ l => l
  | .orderBang _ l => l
  | .orderE _ l => l
  | .orderR _ l => l
  | .orderT _ l => l
  | .orderY _ l => l
  | .orderU _ l => l
  | .orderI _ l => l
  | .orderO _ l => l
  | .orderJ _ l => l
  | .orderHash _ l => l
  | .orderS _ l => l
  | .orderZ _ l => l
  | .orderK _ l => l
  | .orderStar _ l => l
  | .orderDot _ l => l
  | .orderF _ l => l
  | .orderAt _ l => l
  | .orderD _ l => l
  | .orderH _ l => l
  | .orderN _ l => l
  | .orderM _ l => l
  | .orderAmp _ l => l
  | .orderL _ l => l
  | .orderX _ l => l
  | .orderG _ l => l
  | .orderA _ l => l
  | .orderB _ l => l
  | .orderC _ l => l
  | .orderV _ l => l
  | .unknownCode _ _ l => l

end Sys2Proof
end

