-- ==== Sys2Proof/Config.lean ====
section
/-!
DEFINITION. The parameters of 00_scope.md R6, and the one free value.

The widths stand in Word.lean.  The code table, the bootstrap image, the open parameter and the named
alternatives are the fields of `Config`; a state carries one, which no step writes.  Its default is
`Config.standard` (Machine/Standard.lean).
-/

namespace Sys2Proof

/-- `MEM_WORDS`: word addresses 0..1023 (00_scope.md R6). -/
def Config.memWords : Nat := 1024

/-- The bits of a word, `WORD_BITS` (00_scope.md R6). -/
def Config.wordBits : Nat := 17

/-- `MEM_BITS`: 1024 × 17 logical bits (00_scope.md R6, 20_memory.md R51). -/
def Config.memBits : Nat := Config.memWords * Config.wordBits

/-- `ROM_WORDS`: words 0..30 hold the bootstrap image (00_scope.md R6). -/
def Config.romWords : Nat := 31

/-- `PC_RESET`, the entry word (00_scope.md R6, 10_state.md R27). -/
def Config.pcReset : Nat := 31

/-- `TAPE_BASE`, the first word a tape fills (00_scope.md R6). -/
def Config.tapeBase : Nat := 31

/-- `T_MODE` (00_scope.md R6, 42_transfer.md R160). -/
inductive TMode where
  /-- Clear without storing (decision D6). -/
  | legacy
  /-- The named alternative: store, then clear. -/
  | storeThenClear
  deriving DecidableEq, Repr

/-- `G_POLARITY` (00_scope.md R6, 43_control.md R180). -/
inductive GPolarity where
  /-- Branch when the Accumulator's sign bit is 0 (decision D7). -/
  | branchIfNonnegative
  /-- The named alternative: branch when it is 1. -/
  | branchIfNegative
  deriving DecidableEq, Repr

/-- `ROM_WRITE` (00_scope.md R6, 20_memory.md R60). -/
inductive RomWrite where
  /-- Words 0..30 are writable like any other (decision D8). -/
  | write
  /-- The named alternative: a store to words 0..30 faults. -/
  | fault
  deriving DecidableEq, Repr

/-- `LOAD_ATOMIC` (00_scope.md R6, 70_reset_and_hazards.md R264). -/
inductive LoadAtomic where
  /-- A failed load leaves earlier words written (decision D9). -/
  | partialLoad
  /-- The named alternative: a failed load restores every word and tag. -/
  | atomic
  deriving DecidableEq, Repr

/-- A code table: symbols with their codes, in declaration order, which is `DECODE_ORDER`
(30_encoding.md R75, R78).  Its symbols are R75's, whatever the table: DESIGN CHOICE (log 20), unsafe. -/
abbrev CodeTable := List (Symbol × Code)

/-- The parameters an implementation fixes (00_scope.md R6). -/
structure Config where
  /-- `CODE_TABLE` with `DECODE_ORDER` (30_encoding.md R75). -/
  codeTable : CodeTable
  /-- `BOOT_ROM`, its patterns in word order (70_reset_and_hazards.md R252, R253). -/
  bootRom : List String
  /-- `HALT_SENTINEL`, none or one symbol; OPEN (44_output.md R203, D4). -/
  haltSentinel : Option Symbol
  tMode : TMode
  gPolarity : GPolarity
  romWrite : RomWrite
  loadAtomic : LoadAtomic
  deriving DecidableEq, Repr

/-- `draw_10` (00_scope.md R9): the value of the k-th draw, any 10-bit value (43_control.md R183,
decision D28).  It has no body, so a proof holds for every value it takes.  Free value (log 5), safe. -/
opaque Config.scrDraw : Nat → Addr

end Sys2Proof
end

