-- ==== Sys2Proof/Decode.lean ====
section
/-!
DEFINITION. WordCodec (30_encoding.md): the code table, the word layout, the decoder, the encoder and the
tape-line parser.
-/

namespace Sys2Proof

/-! ### The code table -/

/-- `CODE_TABLE` (30_encoding.md R75): codes 0..15, `!` listed after W with W's code.
UNVERIFIED: the table is the spec's decisions D1 and D2 (log 8), unsafe. -/
def codeTableLow : CodeTable :=
  [ (.P, 0b00000#5), (.Q, 0b00001#5), (.W, 0b00010#5), (.bang, 0b00010#5), (.E, 0b00011#5),
    (.R, 0b00100#5), (.T, 0b00101#5), (.Y, 0b00110#5), (.U, 0b00111#5), (.I, 0b01000#5),
    (.O, 0b01001#5), (.J, 0b01010#5), (.hash, 0b01011#5), (.S, 0b01100#5), (.Z, 0b01101#5),
    (.K, 0b01110#5), (.star, 0b01111#5) ]

/-- `CODE_TABLE` (30_encoding.md R75): codes 16..31; 20 (`10100`) has no symbol. -/
def codeTableHigh : CodeTable :=
  [ (.dot, 0b10000#5), (.F, 0b10001#5), (.at, 0b10010#5), (.D, 0b10011#5), (.H, 0b10101#5),
    (.N, 0b10110#5), (.M, 0b10111#5), (.amp, 0b11000#5), (.L, 0b11001#5), (.X, 0b11010#5),
    (.G, 0b11011#5), (.A, 0b11100#5), (.B, 0b11101#5), (.C, 0b11110#5), (.V, 0b11111#5) ]

/-- The spec's value of the parameter `CODE_TABLE`, the whole table of 30_encoding.md R75. -/
def codeTable : CodeTable := codeTableLow ++ codeTableHigh

/-- The printed character of a symbol (30_encoding.md R75). -/
def Symbol.char (s : Symbol) : Char :=
  match s with
  | .P => 'P'
  | .Q => 'Q'
  | .W => 'W'
  | .bang => '!'
  | .E => 'E'
  | .R => 'R'
  | .T => 'T'
  | .Y => 'Y'
  | .U => 'U'
  | .I => 'I'
  | .O => 'O'
  | .J => 'J'
  | .hash => '#'
  | .S => 'S'
  | .Z => 'Z'
  | .K => 'K'
  | .star => '*'
  | .dot => '.'
  | .F => 'F'
  | .at => '@'
  | .D => 'D'
  | .H => 'H'
  | .N => 'N'
  | .M => 'M'
  | .amp => '&'
  | .L => 'L'
  | .X => 'X'
  | .G => 'G'
  | .A => 'A'
  | .B => 'B'
  | .C => 'C'
  | .V => 'V'

/-- The symbol of table `t` that is written with character `c`; matching is exact (30_encoding.md R77). -/
def symbolOfChar (t : CodeTable) (c : Char) : Option Symbol :=
  (t.map Prod.fst).find? fun s => s.char == c

/-- The code table `t` gives symbol `s` (30_encoding.md R77). -/
def codeOf (t : CodeTable) (s : Symbol) : Option Code :=
  (t.find? fun e => e.1 == s).map Prod.snd

/-- `encodeOpcode` on a character (30_encoding.md R77); none is `UnknownSymbol`. -/
def encodeOpcode (t : CodeTable) (c : Char) : Option Code :=
  (symbolOfChar t c).bind (codeOf t)

/-- The candidate symbols of code `c` in declaration order (30_encoding.md R78). -/
def candidates (t : CodeTable) (c : Code) : List Symbol :=
  (t.filter fun e => e.2 == c).map Prod.fst

/-- `decodeOpcode` (30_encoding.md R78): all candidates, in declaration order; none is `UnknownCode`. -/
def decodeOpcode (t : CodeTable) (c : Code) : Option (List Symbol) :=
  match candidates t c with
  | [] => none
  | s :: ss => some (s :: ss)

/-- The one symbol a caller takes: the first candidate (30_encoding.md R78). -/
def firstSymbol (t : CodeTable) (c : Code) : Option Symbol :=
  (decodeOpcode t c).bind List.head?

/-- The first candidate of symbol `s`'s own code (30_encoding.md R78); `s` itself where `t` does not
list it. -/
def firstCandidate (t : CodeTable) (s : Symbol) : Symbol :=
  ((codeOf t s).bind (firstSymbol t)).getD s

/-! ### The word layout (30_encoding.md R71) -/

/-- Indices 0..4 of a word, W[16:12]. -/
def opcodeField (w : Word) : Code := w.extractLsb' 12 5

/-- Index 5 of a word, W[11]. -/
def spareField (w : Word) : BitVec 1 := w.extractLsb' 11 1

/-- Indices 6..15 of a word, W[10:1]. -/
def addressField (w : Word) : Addr := w.extractLsb' 1 10

/-- Index 16 of a word, W[0]. -/
def lengthField (w : Word) : BitVec 1 := w.extractLsb' 0 1

/-- The length flag of a tag (30_encoding.md R73): 1 for long, 0 for short. -/
def Length.flag (l : Length) : BitVec 1 :=
  match l with
  | .short => 0#1
  | .long => 1#1

/-- The tag of a length flag (30_encoding.md R80). -/
def Length.ofFlag (b : BitVec 1) : Length :=
  if b = 1#1 then .long else .short

/-- The word with these four fields, index 0 first (30_encoding.md R71). -/
def layoutWord (c : Code) (spare : BitVec 1) (n : Addr) (l : BitVec 1) : Word :=
  c ++ spare ++ n ++ l

/-- Word `w` with its address field replaced; indices 0..5 and 16 keep their bits
(42_transfer.md R171, R172). -/
def setAddressField (w : Word) (n : Addr) : Word :=
  layoutWord (opcodeField w) (spareField w) n (lengthField w)

/-! ### Decoding and encoding -/

/-- `decode` under code table `t` (30_encoding.md R80): total on every word; the first candidate
decides; neither the spare bit nor the tag is an input. -/
def decodeWith (t : CodeTable) (w : Word) : Instr :=
  match firstSymbol t (opcodeField w) with
  | some s => Instr.ofSymbol s (addressField w) (Length.ofFlag (lengthField w))
  | none => .unknownCode (opcodeField w) (addressField w) (Length.ofFlag (lengthField w))

/-- `decode` under `CODE_TABLE` (30_encoding.md R80, R81). -/
def decode (w : Word) : Instr := decodeWith codeTable w

/-- The opcode an order is encoded with under table `t`; none where its symbol is not in `t`. -/
def Instr.code (t : CodeTable) (i : Instr) : Option Code :=
  match i with
  | .unknownCode c _ _ => some c
  | i => i.symbol.bind (codeOf t)

/-- The word of an order under table `t`, with the spare bit 1 as `encodeWord` writes it
(30_encoding.md R84, R87).  DEDUCED (log 12), safe. -/
def encodeWith (t : CodeTable) (i : Instr) : Option Word :=
  (i.code t).map fun c => layoutWord c 1#1 i.operand i.length.flag

/-- The word of an order under `CODE_TABLE` (30_encoding.md R87). -/
def encode (i : Instr) : Option Word := encodeWith codeTable i

/-- The order the decoder reads from an instruction whose bits are `w`, numbered as
spec/opcode_table.json numbers them (W[0] least significant, 00_scope.md R8), of which the lowest
`nbits` are given; none where `w` is no 17-bit word.  DESIGN CHOICE (log 14), safe. -/
def decodeTableWord (nbits w : Nat) : Option Instr :=
  if w % 2 ^ nbits < 2 ^ 17 then some (decode (BitVec.ofNat 17 (w % 2 ^ nbits))) else none

/-! ### Tape lines (30_encoding.md R83 to R85) -/

/-- A text line without its terminator, a list of characters.  DESIGN CHOICE (log 18), safe. -/
abbrev TapeLine := List Char

/-- `'0'..'9'` (30_encoding.md R84). -/
def isDigit (c : Char) : Bool := Nat.ble 48 c.toNat && Nat.ble c.toNat 57

/-- The value of decimal digits, most significant first; leading zeros are allowed (R84). -/
def decimal (ds : List Char) : Nat := ds.foldl (fun v d => 10 * v + (d.toNat - 48)) 0

/-- A comment line: its first character is `#` (70_reset_and_hazards.md R261). -/
def isComment (line : TapeLine) : Bool := line.head? == some '#'

/-- `parseInstructionLine` (30_encoding.md R84): symbol, contiguous digits, one tag character; what
follows the tag is ignored.  The checks stand in the order of 60_exceptions.md R231. -/
def parseInstructionLine (t : CodeTable) (line : TapeLine) : Except LineError LineRecord :=
  match line with
  | [] => .error (.malformed .emptyLine)
  | c :: rest =>
    match symbolOfChar t c with
    | none => .error (.unknownSymbol c)
    | some s =>
      let digits := rest.takeWhile isDigit
      if decimal digits > 1023 then .error (.malformed .addressAbove1023)
      else .ok
        { symbol := s
          hasAddress := !digits.isEmpty
          address := BitVec.ofNat 10 (decimal digits)
          length := if (rest.dropWhile isDigit).head? = some 'D' then .long else .short }

/-- `encodeWord` (30_encoding.md R84): opcode, spare 1, address, length flag; none is
`UnknownSymbol`. -/
def encodeWord (t : CodeTable) (r : LineRecord) : Option Word :=
  (codeOf t r.symbol).map fun c => layoutWord c 1#1 r.address r.length.flag

end Sys2Proof
end

