-- ==== Sys2Proof/Machine/Standard.lean ====
section
/-!
DEFINITION. The spec's values of the parameters (00_scope.md R6): `BOOT_ROM` and the default configuration.
`CODE_TABLE` is `codeTable` (Decode.lean).
-/

namespace Sys2Proof.Machine

/-- `BOOT_ROM` (70_reset_and_hazards.md R253), orders 0..15, as 17-character patterns whose spaces
are separators only (R252).  UNVERIFIED: the table is the spec's decision D3 (log 9), unsafe. -/
def bootRomLow : List String :=
  [ "00101 0 0000000000 0", "10101 0 0000000010 0", "00101 0 0000000000 0", "00011 0 0000000110 0",
    "00000 0 0000000001 0", "00000 0 0000000101 0", "00101 0 0000000000 0", "01000 0 0000000000 0",
    "11100 0 0000000000 0", "00100 0 0000010000 0", "00101 0 0000000000 1", "01000 0 0000000010 0",
    "11100 0 0000000010 0", "01100 0 0000000101 0", "00011 0 0000010101 0", "00101 0 0000000011 0" ]

/-- `BOOT_ROM` (70_reset_and_hazards.md R253), orders 16..30. -/
def bootRomHigh : List String :=
  [ "11111 0 0000000001 0", "11001 0 0000001000 0", "11100 0 0000000010 0", "00101 0 0000000001 0",
    "00011 0 0000001011 0", "00100 0 0000000100 1", "11100 0 0000000100 0", "11001 0 0000000000 1",
    "11100 0 0000000101 0", "00101 0 0000011111 0", "11100 0 0000011001 0", "11100 0 0000000100 0",
    "00111 0 0000011001 0", "01100 0 0000011111 0", "11011 0 0000000110 0" ]

/-- The spec's value of the parameter `BOOT_ROM`, the 31 patterns of 70_reset_and_hazards.md R253. -/
def bootRom : List String := bootRomLow ++ bootRomHigh

end Sys2Proof.Machine

namespace Sys2Proof

/-- The default configuration of 00_scope.md R6: decisions D1 to D3 and D6 to D9.  `HALT_SENTINEL` is
OPEN; the value none is the one 95_test_vectors.md uses.  DESIGN CHOICE (log 4), unsafe. -/
def Config.standard : Config where
  codeTable := Sys2Proof.codeTable
  bootRom := Machine.bootRom
  haltSentinel := none
  tMode := .legacy
  gPolarity := .branchIfNonnegative
  romWrite := .write
  loadAtomic := .partialLoad

end Sys2Proof
end

