-- ==== Sys2Proof/Machine/State.lean ====
section
/-!
DEFINITION. The faults, the engine status, the tags and the state of the core (10_state.md,
60_exceptions.md R220).
-/

namespace Sys2Proof.Machine

/-- What an `OutOfBounds` was raised for (60_exceptions.md R220 records `fetch` or `load`). -/
inductive AccessKind where
  /-- A fetch with `pc ≥ 1024` (40_engine.md R114). -/
  | fetch
  /-- A tape line for a word beyond 1023 (70_reset_and_hazards.md R264). -/
  | load
  /-- A bit access outside a BitMemory (20_memory.md R50).  The kind, and the number recorded with it, are a
  DESIGN CHOICE (log 15), safe. -/
  | bit
  deriving DecidableEq, Repr

/-- The bits an `UnknownCode` records (60_exceptions.md R223).  DEDUCED (log 16), safe. -/
inductive UnknownBits where
  /-- A 5-bit code without a symbol. -/
  | code (c : Code)
  /-- A 10-bit address field of 32 or more (44_output.md R202). -/
  | field (v : Addr)
  deriving DecidableEq, Repr

/-- The fault taxonomy (60_exceptions.md R220).  An engine fault is recorded in `status`: the step
that raises it answers a NEXT state (DEDUCED, log 3, safe), so no step of this model ends in `Outcome.fault`. -/
inductive Fault where
  /-- Raised by a fetch at `pc ≥ 1024`, a tape load beyond word 1023, or a BitMemory index out of
  range.  Safe: the spec's own stop (R221). -/
  | outOfBounds (kind : AccessKind) (index : Nat)
  /-- Raised by dispatch of a code without a symbol and by O.  Safe: the spec's own stop (R223);
  for a field of 32 or more it errs toward unprovable (D29). -/
  | unknownCode (bits : UnknownBits)
  /-- Raised by dispatch of a symbol without a handler.  Safe: the spec's own stop (R224). -/
  | unimplementedInstruction (s : Symbol)
  /-- Raised by A when the sum reaches 2^70.  Safe: the spec's own stop (R226, D5). -/
  | accumulatorOverflow (a : AccWord) (v : Addr)
  /-- Raised by U, and by T in `store_then_clear` mode, when ACC ≥ 2^10.  Safe: the spec's own stop
  (R227, D27). -/
  | storeOverflow (a : AccWord)
  /-- Raised by a store to words 0..30 when `ROM_WRITE = fault`.  Safe: the spec's own stop (R228). -/
  | romWrite (n : Addr)
  /-- Raised by the TapeLoader: a line's first character is no symbol.  Safe: the load stops (R222). -/
  | unknownInstruction (line : Nat) (c : Char)
  /-- Raised by the TapeLoader: an empty line, or an address above 1023.  Safe: the load stops
  (R225). -/
  | malformedInstructionLine (line : Nat) (expected : LineProblem)
  deriving DecidableEq, Repr

/-- The numbers of 60_exceptions.md R220 (decision D30). -/
def Fault.number (f : Fault) : Nat :=
  match f with
  | .outOfBounds _ _ => 1
  | .unknownCode _ => 2
  | .unimplementedInstruction _ => 3
  | .accumulatorOverflow _ _ => 4
  | .storeOverflow _ => 5
  | .romWrite _ => 6
  | .unknownInstruction _ _ => 16
  | .malformedInstructionLine _ _ => 17

/-- Reasons for a step to have no meaning. -/
inductive Refusal where
  /-- Raised by an arm of `exec` whose instruction has no meaning yet; every arm has one, so no step
  raises it.  Safe. -/
  | notModelled (mnemonic : String)
  deriving DecidableEq, Repr

/-- The engine status (10_state.md R32, decision D15). -/
inductive Status where
  | idle
  | running
  | halted
  | faulted (f : Fault)
  | resetRequested
  deriving DecidableEq, Repr

/-- The per-word tag record (10_state.md R30). -/
structure Tag where
  letter : Option Symbol
  hasAddress : Bool
  address : Addr
  length : Length
  deriving DecidableEq, Repr

/-- The tag a word has where no loader wrote one (10_state.md R38). -/
def Tag.blank : Tag where
  letter := none
  hasAddress := false
  address := 0#10
  length := .short

/-- The state of the core (10_state.md R20).  `mem` and `tags` list the words that differ from their
reset contents, at strictly rising addresses (DEDUCED, log 1, safe).  `output`, `config` and `draws` stand
beside the spec's state: the output event list (R35; DEDUCED, log 7, safe), the configuration, which
no step writes (DESIGN CHOICE, log 4), and the count of free values drawn (DESIGN CHOICE, log 5,
safe). -/
structure State where
  /-- The Accumulator (R22). -/
  acc : AccWord
  /-- The Multiplier (R23). -/
  mr : LongWord
  /-- The Multiplicand (R24). -/
  md : LongWord
  /-- The Order Tank (R25). -/
  ot : Word
  /-- The Sequence Control Register (R26). -/
  scr : Addr
  /-- The program counter (R27). -/
  pc : Nat
  /-- Main memory (R29, 20_memory.md R51). -/
  mem : List (Nat × Word)
  /-- The per-word tags (R30). -/
  tags : List (Nat × Tag)
  /-- The engine status (R32). -/
  status : Status
  /-- Set by a successful tape load (R33). -/
  programLoaded : Bool
  /-- Host flag, read by `start` (R34). -/
  stepMode : Bool
  /-- Host flag without effect on the core (R34, decision D16). -/
  debugMode : Bool
  /-- The symbols emitted so far, oldest first (R35). -/
  output : List Symbol
  /-- The configuration the core was built with (00_scope.md R6). -/
  config : Config
  /-- How many free values have been drawn. -/
  draws : Nat
  deriving DecidableEq, Repr

/-- The state after construction (10_state.md R38): words 0..30 read as the bootstrap image and
every other word as 0, with nothing listed. -/
def State.reset : State where
  acc := 0#71
  mr := 0#35
  md := 0#35
  ot := 0#17
  scr := 0#10
  pc := Config.pcReset
  mem := []
  tags := []
  status := .idle
  programLoaded := false
  stepMode := false
  debugMode := false
  output := []
  config := Config.standard
  draws := 0

/-- The source's flag `executing`, a view of the status (10_state.md R32). -/
def State.executing (s : State) : Bool := s.status == .running

end Sys2Proof.Machine
end

