-- ==== Sys2Proof/Machine/Bootstrap.lean ====
section
/-!
DEFINITION. The bootstrap image of a configuration (70_reset_and_hazards.md R252 to R254) and what an
unlisted word of memory and of the tags reads as.
-/

namespace Sys2Proof.Machine

/-- The characters of a pattern with every space removed (70_reset_and_hazards.md R252). -/
def patternChars (p : String) : List Char := p.toList.filter (· != ' ')

/-- The first `n` bits of a pattern's characters, index 0 first: bit k is `s[k] = '1'`
(70_reset_and_hazards.md R252). -/
def patternBits (cs : List Char) (n : Nat) : BitVec n :=
  match n with
  | 0 => 0#0
  | n + 1 => (patternBits cs n).concat (cs[n]? == some '1')

/-- The word of a pattern (70_reset_and_hazards.md R252). -/
def patternWord (p : String) : Word := patternBits (patternChars p) Config.wordBits

/-- `BOOT_ROM[w]` of a configuration; an image that is too short has no bit 1 there. -/
def romPattern (c : Config) (w : Nat) : String := c.bootRom.getD w ""

/-- What word `w` holds after construction (10_state.md R38): the bootstrap image in words 0..30 and
0 elsewhere.  An unlisted word reads as this. -/
def resetWord (c : Config) (w : Nat) : Word :=
  if w < Config.romWords then patternWord (romPattern c w) else 0#17

/-- The tag a word gets from its own bits with an explicit address under table `t`, as the
BootstrapLoader records it (70_reset_and_hazards.md R254, decision D14). -/
def tagOfWord (t : CodeTable) (w : Word) : Tag where
  letter := firstSymbol t (opcodeField w)
  hasAddress := true
  address := addressField w
  length := Length.ofFlag (lengthField w)

/-- The tag word `w` has after construction (10_state.md R38, 70_reset_and_hazards.md R254).  An
unlisted tag reads as this. -/
def resetTag (c : Config) (w : Nat) : Tag :=
  if w < Config.romWords then tagOfWord c.codeTable (resetWord c w) else Tag.blank

end Sys2Proof.Machine
end

