-- ==== Sys2Proof/Machine/Memory.lean ====
section
/-!
DEFINITION. The sparse store behind main memory and the tags: a list of (word address, value) pairs in one
canonical form, addresses strictly rising and no entry equal to what an unlisted address reads as.
-/

namespace Sys2Proof.Machine

variable {α : Type}

/-- The value at address `a`; an unlisted address reads as `d a`. -/
def storeRead (d : Nat → α) (m : List (Nat × α)) (a : Nat) : α :=
  match m with
  | [] => d a
  | (b, v) :: m => if a = b then v else storeRead d m a

/-- The entry `(a, v)` put in its place by address. -/
def storeInsert (m : List (Nat × α)) (a : Nat) (v : α) : List (Nat × α) :=
  match m with
  | [] => [(a, v)]
  | (b, u) :: m => if a < b then (a, v) :: (b, u) :: m else (b, u) :: storeInsert m a v

/-- `v` written at address `a`: the old entry goes, and the new one is listed unless it is what an
unlisted address reads as. -/
def storeWrite [DecidableEq α] (d : Nat → α) (m : List (Nat × α)) (a : Nat) (v : α) :
    List (Nat × α) :=
  let rest := m.filter fun e => e.1 != a
  if v = d a then rest else storeInsert rest a v

/-- Addresses strictly rise from `lo` on and lie below `bound`. -/
def storeRising (lo bound : Nat) (m : List (Nat × α)) : Bool :=
  match m with
  | [] => true
  | (b, _) :: m => decide (lo ≤ b) && decide (b < bound) && storeRising (b + 1) bound m

/-- The canonical form: strictly rising addresses below `bound`, no entry equal to what its address
reads as when unlisted. -/
def storeWf [DecidableEq α] (d : Nat → α) (bound : Nat) (m : List (Nat × α)) : Bool :=
  storeRising 0 bound m && m.all fun e => decide (e.2 ≠ d e.1)

/-- Main memory of a core with configuration `c` is in canonical form (20_memory.md R51). -/
def Memory.wf (c : Config) (m : List (Nat × Word)) : Bool :=
  storeWf (resetWord c) Config.memWords m

/-- The tags of a core with configuration `c` are in canonical form (10_state.md R30). -/
def Tags.wf (c : Config) (m : List (Nat × Tag)) : Bool := storeWf (resetTag c) Config.memWords m

end Sys2Proof.Machine
end

