-- ==== Sys2Proof/Machine/Ops.lean ====
section
/-!
DEFINITION. The named operations every order shares: word and tag accesses, the end of an iteration
(40_engine.md R121, R122), and reset, the only way out of a fault (60_exceptions.md R234).
-/

namespace Sys2Proof.Machine

/-! ### Words and tags -/

/-- `Word(w)` (00_scope.md R9, 20_memory.md R56).  Past the memory it has no meaning in the spec, and its
callers check the range (log 21). -/
def State.word (s : State) (w : Nat) : Word := storeRead (resetWord s.config) s.mem w

/-- `Opc(w)` (20_memory.md R56): indices 0..4 of word `w`. -/
def State.opc (s : State) (w : Nat) : Code := opcodeField (s.word w)

/-- `Addr(w)` (20_memory.md R56): indices 6..15 of word `w`. -/
def State.addr (s : State) (w : Nat) : Addr := addressField (s.word w)

/-- `tag[w]` (10_state.md R30).  R30 has none for `w ≥ 1024`: an unlisted one reads as the default tag here,
and the host's read of it is refused (`readTag`).  DESIGN CHOICE (log 21), safe. -/
def State.tag (s : State) (w : Nat) : Tag := storeRead (resetTag s.config) s.tags w

/-- `MemWrite(17·w, 17, v)`: all of word `w` written (20_memory.md R54).  An operand address is
always in range (R58). -/
def State.setWord (s : State) (w : Addr) (v : Word) : State :=
  { s with mem := storeWrite (resetWord s.config) s.mem w.toNat v }

/-- `tag[w] <- t`. -/
def State.setTag (s : State) (w : Addr) (t : Tag) : State :=
  { s with tags := storeWrite (resetTag s.config) s.tags w.toNat t }

/-- `MemWrite(17·n + 6, 10, a)` and `tag[n].address <- a` (42_transfer.md R172): the address field
of word `n` and its copy in the tag; every other bit of both stays. -/
def State.setAddr (s : State) (n a : Addr) : State :=
  (s.setWord n (setAddressField (s.word n.toNat) a)).setTag n { s.tag n.toNat with address := a }

/-! ### Registers, output and the free value -/

/-- `x[ACC] <- a` (00_scope.md R9). -/
def State.setAcc (s : State) (a : AccWord) : State := { s with acc := a }

/-- `x[SCR] <- a`. -/
def State.setScr (s : State) (a : Addr) : State := { s with scr := a }

/-- `pc <- v` (00_scope.md R9). -/
def State.setPc (s : State) (v : Nat) : State := { s with pc := v }

/-- `status <- st`. -/
def State.setStatus (s : State) (st : Status) : State := { s with status := st }

/-- `emit(c)`: one symbol appended to the output stream (00_scope.md R9, 10_state.md R35). -/
def State.emit (s : State) (c : Symbol) : State := { s with output := s.output ++ [c] }

/-- `SCR <- draw_10` (43_control.md R183): the next free value, and the count advanced. -/
def State.drawScr (s : State) : State :=
  { s with scr := Config.scrDraw s.draws, draws := s.draws + 1 }

/-! ### The end of an iteration -/

/-- Normal completion (40_engine.md R121): `pc <- pc + 1`. -/
def completed (s : State) : State := { s with pc := s.pc + 1 }

/-- A fault ends the iteration (40_engine.md R122, 60_exceptions.md R230): only the status is
written; `pc` still names the faulting word. -/
def takeFault (s : State) (f : Fault) : State := { s with status := .faulted f }

/-- How an iteration ends: the handler's state, or the fault it raised, taken in the state the
handler was entered with. -/
def finish (s : State) (r : Except Fault State) : Host.Outcome State Fault Refusal :=
  match r with
  | .ok t => .next t
  | .error f => .next (takeFault s f)

/-- `reset()` (70_reset_and_hazards.md R250): the machine state is rebuilt; the output already
emitted stays with the host (10_state.md R35), the configuration is not state (R20; DESIGN CHOICE,
log 4), and drawn values are not drawn again (log 5). -/
def hostReset (s : State) : State :=
  { State.reset with output := s.output, config := s.config, draws := s.draws }

end Sys2Proof.Machine
end

