-- ==== Sys2Proof/Machine/Operands.lean ====
section
/-!
DEFINITION. The one operand form (30_encoding.md R74): a word address, read where an order needs it.
-/

namespace Sys2Proof.Machine

/-- The operand address of the fetched order, `val(OT⟨6..15⟩)` (40_engine.md R117, decision D12).
`decodeWith` reads the same field, so a handler gets it as the order's `n`. -/
def State.operand (s : State) : Addr := addressField s.ot

/-- The executing word has an address operand: `tag[pc].hasAddress` (41_arithmetic.md R141). -/
def State.hasOperand (s : State) : Bool := (s.tag s.pc).hasAddress

/-- The value A and O read through operand `n`: `Addr(n)` (20_memory.md R54). -/
def State.operandValue (s : State) (n : Addr) : Addr := s.addr n.toNat

/-- Operand `n` names a word of the bootstrap image (20_memory.md R59). -/
def inRom (n : Addr) : Bool := decide (n.toNat < Config.romWords)

/-- The symbol O makes of a field value under table `t` (44_output.md R201, R202): the first candidate of its code
when it is below 32, else the `UnknownCode` it faults with. -/
def outputSymbol (t : CodeTable) (v : Addr) : Except Fault Symbol :=
  if 32 ≤ v.toNat then .error (.unknownCode (.field v))
  else
    match firstSymbol t (BitVec.ofNat 5 v.toNat) with
    | some c => .ok c
    | none => .error (.unknownCode (.code (BitVec.ofNat 5 v.toNat)))

end Sys2Proof.Machine
end

