-- ==== Sys2Proof/Machine/Flags.lean ====
section
/-!
DEFINITION. The conditions the orders test.  The core has no flags and no condition codes (10_state.md
R36): what stands here is the Accumulator's sign bit and the two range checks.
-/

namespace Sys2Proof.Machine

/-- `ACC⟨0⟩`, the sign bit (10_state.md R22, R36). -/
def accSign (acc : AccWord) : Bool := acc.getMsbD 0

/-- Whether G branches (43_control.md R181, decision D7). -/
def branchTaken (p : GPolarity) (acc : AccWord) : Bool :=
  match p with
  | .branchIfNonnegative => !accSign acc
  | .branchIfNegative => accSign acc

/-- The exact sum A forms, both operands unsigned (41_arithmetic.md R140). -/
def accSum (a : AccWord) (v : Addr) : Nat := a.toNat + v.toNat

/-- The sum reaches 2^70 (41_arithmetic.md R140, decision D5). -/
def accOverflows (a : AccWord) (v : Addr) : Bool := decide (2 ^ 70 ≤ accSum a v)

/-- The Accumulator does not fit a 10-bit field (42_transfer.md R172, decision D27). -/
def storeOverflows (a : AccWord) : Bool := decide (2 ^ 10 ≤ a.toNat)

end Sys2Proof.Machine
end

