-- ==== Sys2Proof/Machine/Arithmetic.lean ====
section
/-!
DEFINITION. The arithmetic orders A and S (41_arithmetic.md).
-/

namespace Sys2Proof.Machine

/-- A's handler (41_arithmetic.md R141): without an address operand nothing is read or added;
otherwise the exact unsigned sum, right-aligned in all 71 bits (R142), or `AccumulatorOverflow`. -/
def addOrder (n : Addr) (s : State) : Except Fault State :=
  if s.hasOperand then
    if accOverflows s.acc (s.operandValue n) then
      .error (.accumulatorOverflow s.acc (s.operandValue n))
    else
      .ok (completed (s.setAcc (BitVec.ofNat 71 (accSum s.acc (s.operandValue n)))))
  else .ok (completed s)

/-- A (41_arithmetic.md R141).  The length tag is ignored (30_encoding.md R73). -/
def execA (n : Addr) (_l : Length) (s : State) : Host.Outcome State Fault Refusal :=
  finish s (addOrder n s)

/-- S, a placeholder without effect (41_arithmetic.md R145): it only completes. -/
def execS (_n : Addr) (_l : Length) (s : State) : Host.Outcome State Fault Refusal :=
  finish s (.ok (completed s))

end Sys2Proof.Machine
end

