-- ==== Sys2Proof/Machine/Control.lean ====
section
/-!
DEFINITION. The control orders G and Z (43_control.md).
-/

namespace Sys2Proof.Machine

/-- A taken branch to word `n` with its completion (43_control.md R182: `pc <- n - 1`, then `+ 1`):
SCR holds `n - 1`, or a drawn value when `n = 0` (R183).  DEDUCED (log 17), safe. -/
def branchTo (s : State) (n : Addr) : State :=
  if n = 0#10 then s.drawScr.setPc 0
  else (s.setScr (BitVec.ofNat 10 (n.toNat - 1))).setPc n.toNat

/-- G's handler (43_control.md R181). -/
def branchOrder (n : Addr) (s : State) : State :=
  if branchTaken s.config.gPolarity s.acc then branchTo s n else completed s

/-- G (43_control.md R181): used whatever `hasAddress` says; no fault. -/
def execG (n : Addr) (_l : Length) (s : State) : Host.Outcome State Fault Refusal :=
  finish s (.ok (branchOrder n s))

/-- Z, stop (43_control.md R190): Halted, then `pc + 1`. -/
def execZ (_n : Addr) (_l : Length) (s : State) : Host.Outcome State Fault Refusal :=
  finish s (.ok (completed (s.setStatus .halted)))

end Sys2Proof.Machine
end

