-- ==== Sys2Proof/Machine/Output.lean ====
section
/-!
DEFINITION. The output order O (44_output.md).
-/

namespace Sys2Proof.Machine

/-- The status after O emitted `c` (44_output.md R203): the sentinel requests a reset. -/
def statusAfterEmit (s : State) (c : Symbol) : Status :=
  if s.config.haltSentinel = some c then .resetRequested else s.status

/-- O's handler (44_output.md R201): the symbol of word n's address field is emitted, then the
sentinel is looked for; a field without a symbol faults before anything is emitted. -/
def outputOrder (n : Addr) (s : State) : Except Fault State :=
  (outputSymbol s.config.codeTable (s.operandValue n)).map fun c =>
    completed ((s.emit c).setStatus (statusAfterEmit s c))

/-- O (44_output.md R201): used whatever `hasAddress` says. -/
def execO (n : Addr) (_l : Length) (s : State) : Host.Outcome State Fault Refusal :=
  finish s (outputOrder n s)

end Sys2Proof.Machine
end

