-- ==== Sys2Proof/Machine/Transfer.lean ====
section
/-!
DEFINITION. The transfer orders T and U (42_transfer.md).
-/

namespace Sys2Proof.Machine

/-- `U_store(n)` (42_transfer.md R172): both checks come before the write. -/
def storeAcc (s : State) (n : Addr) : Except Fault State :=
  if storeOverflows s.acc then .error (.storeOverflow s.acc)
  else if inRom n && s.config.romWrite == .fault then .error (.romWrite n)
  else .ok (s.setAddr n (BitVec.ofNat 10 s.acc.toNat))

/-- The Accumulator with every bit zero. -/
def clearAcc (s : State) : State := s.setAcc 0#71

/-- T's handler (42_transfer.md R161): no effect at word 31, whenever it runs there; elsewhere
`T_MODE` decides. -/
def transferOrder (n : Addr) (s : State) : Except Fault State :=
  if s.pc = 31 then .ok (completed s)
  else
    match s.config.tMode with
    | .legacy => .ok (completed (clearAcc s))
    | .storeThenClear => (storeAcc s n).map fun t => completed (clearAcc t)

/-- T (42_transfer.md R161). -/
def execT (n : Addr) (_l : Length) (s : State) : Host.Outcome State Fault Refusal :=
  finish s (transferOrder n s)

/-- U (42_transfer.md R171): the store, whatever `hasAddress` says; ACC stays. -/
def execU (n : Addr) (_l : Length) (s : State) : Host.Outcome State Fault Refusal :=
  finish s ((storeAcc s n).map completed)

end Sys2Proof.Machine
end

