-- ==== Sys2Proof/Machine/Unhandled.lean ====
section
/-!
DEFINITION. The orders without a handler, and the unknown code (40_engine.md R119, R120).

Their effect IS the dispatch failure: the engine stops in `Faulted(f)` with OT and SCR as fetch left
them, `pc` at the failing word and nothing else written (R122).
-/

namespace Sys2Proof.Machine

/-- A symbol without a handler fails at dispatch (40_engine.md R119, 60_exceptions.md R224). -/
def dispatchFailure (s : State) (c : Symbol) : Host.Outcome State Fault Refusal :=
  finish s (.error (.unimplementedInstruction c))

/-- `P`, code 00000: no handler (40_engine.md R119). -/
def execP (_n : Addr) (_l : Length) (s : State) : Host.Outcome State Fault Refusal :=
  dispatchFailure s .P

/-- `Q`, code 00001: no handler (40_engine.md R119). -/
def execQ (_n : Addr) (_l : Length) (s : State) : Host.Outcome State Fault Refusal :=
  dispatchFailure s .Q

/-- `W`, code 00010: no handler (40_engine.md R119). -/
def execW (_n : Addr) (_l : Length) (s : State) : Host.Outcome State Fault Refusal :=
  dispatchFailure s .W

/-- `!`: no handler; the fault records the first candidate of its code (60_exceptions.md R224), which
under `CODE_TABLE` is W, so no word decodes to it (30_encoding.md R78, decision D2).  DEDUCED (log 10),
safe. -/
def execBang (_n : Addr) (_l : Length) (s : State) : Host.Outcome State Fault Refusal :=
  dispatchFailure s (firstCandidate s.config.codeTable .bang)

/-- `E`, code 00011: no handler (40_engine.md R119). -/
def execE (_n : Addr) (_l : Length) (s : State) : Host.Outcome State Fault Refusal :=
  dispatchFailure s .E

/-- `R`, code 00100: no handler (40_engine.md R119). -/
def execR (_n : Addr) (_l : Length) (s : State) : Host.Outcome State Fault Refusal :=
  dispatchFailure s .R

/-- `Y`, code 00110: no handler (40_engine.md R119). -/
def execY (_n : Addr) (_l : Length) (s : State) : Host.Outcome State Fault Refusal :=
  dispatchFailure s .Y

/-- `I`, code 01000: no handler (40_engine.md R119). -/
def execI (_n : Addr) (_l : Length) (s : State) : Host.Outcome State Fault Refusal :=
  dispatchFailure s .I

/-- `J`, code 01010: no handler (40_engine.md R119). -/
def execJ (_n : Addr) (_l : Length) (s : State) : Host.Outcome State Fault Refusal :=
  dispatchFailure s .J

/-- `#`, code 01011: no handler (40_engine.md R119). -/
def execHash (_n : Addr) (_l : Length) (s : State) : Host.Outcome State Fault Refusal :=
  dispatchFailure s .hash

/-- `K`, code 01110: no handler (40_engine.md R119). -/
def execK (_n : Addr) (_l : Length) (s : State) : Host.Outcome State Fault Refusal :=
  dispatchFailure s .K

/-- `*`, code 01111: no handler (40_engine.md R119). -/
def execStar (_n : Addr) (_l : Length) (s : State) : Host.Outcome State Fault Refusal :=
  dispatchFailure s .star

/-- `.`, code 10000: no handler (40_engine.md R119). -/
def execDot (_n : Addr) (_l : Length) (s : State) : Host.Outcome State Fault Refusal :=
  dispatchFailure s .dot

/-- `F`, code 10001: no handler (40_engine.md R119). -/
def execF (_n : Addr) (_l : Length) (s : State) : Host.Outcome State Fault Refusal :=
  dispatchFailure s .F

/-- `@`, code 10010: no handler (40_engine.md R119). -/
def execAt (_n : Addr) (_l : Length) (s : State) : Host.Outcome State Fault Refusal :=
  dispatchFailure s .at

/-- `D`, code 10011: no handler (40_engine.md R119). -/
def execD (_n : Addr) (_l : Length) (s : State) : Host.Outcome State Fault Refusal :=
  dispatchFailure s .D

/-- `H`, code 10101: no handler (40_engine.md R119). -/
def execH (_n : Addr) (_l : Length) (s : State) : Host.Outcome State Fault Refusal :=
  dispatchFailure s .H

/-- `N`, code 10110: no handler (40_engine.md R119). -/
def execN (_n : Addr) (_l : Length) (s : State) : Host.Outcome State Fault Refusal :=
  dispatchFailure s .N

/-- `M`, code 10111: no handler (40_engine.md R119). -/
def execM (_n : Addr) (_l : Length) (s : State) : Host.Outcome State Fault Refusal :=
  dispatchFailure s .M

/-- `&`, code 11000: no handler (40_engine.md R119). -/
def execAmp (_n : Addr) (_l : Length) (s : State) : Host.Outcome State Fault Refusal :=
  dispatchFailure s .amp

/-- `L`, code 11001: no handler (40_engine.md R119). -/
def execL (_n : Addr) (_l : Length) (s : State) : Host.Outcome State Fault Refusal :=
  dispatchFailure s .L

/-- `X`, code 11010: no handler (40_engine.md R119). -/
def execX (_n : Addr) (_l : Length) (s : State) : Host.Outcome State Fault Refusal :=
  dispatchFailure s .X

/-- `B`, code 11101: no handler (40_engine.md R119). -/
def execB (_n : Addr) (_l : Length) (s : State) : Host.Outcome State Fault Refusal :=
  dispatchFailure s .B

/-- `C`, code 11110: no handler (40_engine.md R119). -/
def execC (_n : Addr) (_l : Length) (s : State) : Host.Outcome State Fault Refusal :=
  dispatchFailure s .C

/-- `V`, code 11111: no handler (40_engine.md R119). -/
def execV (_n : Addr) (_l : Length) (s : State) : Host.Outcome State Fault Refusal :=
  dispatchFailure s .V

/-- A code without a symbol (40_engine.md R120, 60_exceptions.md R223): `10100` under `CODE_TABLE`. -/
def execUnknownCode (c : Code) (_n : Addr) (_l : Length) (s : State) :
    Host.Outcome State Fault Refusal :=
  finish s (.error (.unknownCode (.code c)))

end Sys2Proof.Machine
end

