-- ==== Sys2Proof/Machine/Dispatch.lean ====
section
/-!
DEFINITION. Dispatch (40_engine.md R116): one arm per order, run in the state fetch left.
-/

namespace Sys2Proof.Machine

/-- The handler of a decoded order and the end of its iteration (40_engine.md R116, R121, R122). -/
def exec (i : Instr) (s : State) : Host.Outcome State Fault Refusal :=
  match i with
  | .orderP n l => Sys2Proof.Machine.execP n l s
  | .orderQ n l => Sys2Proof.Machine.execQ n l s
  | .orderW n l => Sys2Proof.Machine.execW n l s
  | .orderBang n l => Sys2Proof.Machine.execBang n l s
  | .orderE n l => Sys2Proof.Machine.execE n l s
  | .orderR n l => Sys2Proof.Machine.execR n l s
  | .orderT n l => Sys2Proof.Machine.execT n l s
  | .orderY n l => Sys2Proof.Machine.execY n l s
  | .orderU n l => Sys2Proof.Machine.execU n l s
  | .orderI n l => Sys2Proof.Machine.execI n l s
  | .orderO n l => Sys2Proof.Machine.execO n l s
  | .orderJ n l => Sys2Proof.Machine.execJ n l s
  | .orderHash n l => Sys2Proof.Machine.execHash n l s
  | .orderS n l => Sys2Proof.Machine.execS n l s
  | .orderZ n l => Sys2Proof.Machine.execZ n l s
  | .orderK n l => Sys2Proof.Machine.execK n l s
  | .orderStar n l => Sys2Proof.Machine.execStar n l s
  | .orderDot n l => Sys2Proof.Machine.execDot n l s
  | .orderF n l => Sys2Proof.Machine.execF n l s
  | .orderAt n l => Sys2Proof.Machine.execAt n l s
  | .orderD n l => Sys2Proof.Machine.execD n l s
  | .orderH n l => Sys2Proof.Machine.execH n l s
  | .orderN n l => Sys2Proof.Machine.execN n l s
  | .orderM n l => Sys2Proof.Machine.execM n l s
  | .orderAmp n l => Sys2Proof.Machine.execAmp n l s
  | .orderL n l => Sys2Proof.Machine.execL n l s
  | .orderX n l => Sys2Proof.Machine.execX n l s
  | .orderG n l => Sys2Proof.Machine.execG n l s
  | .orderA n l => Sys2Proof.Machine.execA n l s
  | .orderB n l => Sys2Proof.Machine.execB n l s
  | .orderC n l => Sys2Proof.Machine.execC n l s
  | .orderV n l => Sys2Proof.Machine.execV n l s
  | .unknownCode c n l => Sys2Proof.Machine.execUnknownCode c n l s

end Sys2Proof.Machine
end

