-- ==== Sys2Proof/Machine/Fetch.lean ====
section
/-!
DEFINITION. What a step does around an order: admission (40_engine.md R111), fetch (R112 to R114), and the
load of one word that `State.withFetchWord` stands for.
-/

namespace Sys2Proof.Machine

/-- What `step()` and `start()` report to the host (40_engine.md R110, R111). -/
inductive Report where
  /-- The call was admitted. -/
  | admitted
  /-- "no program loaded" (60_exceptions.md R241). -/
  | noProgramLoaded
  /-- The engine has stopped in this status; only `reset()` leaves it. -/
  | stopped (status : Status)
  deriving DecidableEq, Repr

/-- Admission (40_engine.md R111): the Running state, also from Idle (DEDUCED, log 19, safe), or the
report of a refusal that changes nothing. -/
def admission (s : State) : Except Report State :=
  if s.programLoaded then
    match s.status with
    | .idle => .ok (s.setStatus .running)
    | .running => .ok (s.setStatus .running)
    | .halted => .error (.stopped .halted)
    | .faulted f => .error (.stopped (.faulted f))
    | .resetRequested => .error (.stopped .resetRequested)
  else .error .noProgramLoaded

/-- `pc` names a word (40_engine.md R114). -/
def fetchable (s : State) : Bool := decide (s.pc < Config.memWords)

/-- Fetch (40_engine.md R112, R113): the word at `pc` to OT, `bin_10(pc)` to SCR. -/
def fetch (s : State) : State :=
  { s with ot := s.word s.pc, scr := BitVec.ofNat 10 s.pc }

/-- The order in the Order Tank, under the core's own code table (40_engine.md R116). -/
def decodeTank (s : State) : Instr := decodeWith s.config.codeTable s.ot

/-- A fetch out of range (40_engine.md R114): `OutOfBounds(fetch, pc)`, and OT, SCR and `pc` keep
their values. -/
def fetchFault (s : State) : Host.Outcome State Fault Refusal :=
  finish s (.error (.outOfBounds .fetch s.pc))

/-- One word loaded from outside the machine where the next step fetches it (DESIGN CHOICE, log 13,
safe): the word, the tag a load of it with an explicit address writes, and `programLoaded`; a stopped engine is Idle
again, and a `pc` past the memory is the entry word. -/
def loadWordAtPc (s : State) (w : Word) : State :=
  let p := if s.pc < Config.memWords then s.pc else Config.pcReset
  let a := BitVec.ofNat 10 p
  { (s.setWord a w).setTag a (tagOfWord s.config.codeTable w) with
    pc := p
    programLoaded := true
    status := if s.status = .running then .running else .idle }

end Sys2Proof.Machine
end

