-- ==== Sys2Proof/Machine/Step.lean ====
section
/-!
DEFINITION. The step: the host's `step()` (40_engine.md R124), which is one `iterate` (R118) from a state
that `admission` lets run.
-/

namespace Sys2Proof.Machine

/-- One iteration (40_engine.md R118), from an admitted state. -/
def iterate (s : State) : Host.Outcome State Fault Refusal :=
  if fetchable s then exec (decodeTank (fetch s)) (fetch s) else fetchFault s

/-- `step()` (40_engine.md R124): admission, then exactly one iteration.  A refused call answers the
unchanged state (R111).  DESIGN CHOICE (log 2), safe. -/
def step (s : State) : Host.Outcome State Fault Refusal :=
  match admission s with
  | .ok t => iterate t
  | .error _ => .next s

/-- `s` with the word whose bits are `w`, numbered as spec/opcode_table.json numbers them, loaded
where `step` fetches its next order.  DESIGN CHOICE (log 13), safe. -/
def State.withFetchWord (s : State) (nbits w : Nat) : State :=
  loadWordAtPc s (BitVec.ofNat 17 (w % 2 ^ nbits))

end Sys2Proof.Machine
end

