-- ==== Sys2Proof/Machine/BitMemory.lean ====
section
/-!
DEFINITION. The BitMemory primitive (20_memory.md R50) and the bit-level access to main memory that the
spec's pseudocode is written in (00_scope.md R9).  Ops.lean's word accesses are the same accesses,
a word at a time (R55).  What an `OutOfBounds` of a bit access records is a DESIGN CHOICE (log 15), safe.
-/

namespace Sys2Proof.Machine

/-! ### One BitMemory: a register, or any fixed capacity -/

/-- `make(capacity)`: all bits 0 (20_memory.md R50). -/
def BitMemory.make (capacity : Nat) : BitVec capacity := 0#capacity

/-- `test(i)` (20_memory.md R50).  Out of range the fault records `i` (log 15). -/
def BitMemory.test {capacity : Nat} (m : BitVec capacity) (i : Nat) : Except Fault Bool :=
  if i < capacity then .ok (m.getMsbD i) else .error (.outOfBounds .bit i)

/-- The bit at index `i` made `b`; index 0 is the most significant bit (00_scope.md R7). -/
def BitMemory.put {capacity : Nat} (m : BitVec capacity) (i : Nat) (b : Bool) : BitVec capacity :=
  if b then m ||| BitVec.twoPow capacity (capacity - 1 - i)
  else m &&& ~~~(BitVec.twoPow capacity (capacity - 1 - i))

/-- `set(i)` (20_memory.md R50).  Out of range the fault records `i` (log 15). -/
def BitMemory.set {capacity : Nat} (m : BitVec capacity) (i : Nat) :
    Except Fault (BitVec capacity) :=
  if i < capacity then .ok (BitMemory.put m i true) else .error (.outOfBounds .bit i)

/-- `clear(i)` (20_memory.md R50).  Out of range the fault records `i` (log 15). -/
def BitMemory.clear {capacity : Nat} (m : BitVec capacity) (i : Nat) :
    Except Fault (BitVec capacity) :=
  if i < capacity then .ok (BitMemory.put m i false) else .error (.outOfBounds .bit i)

/-! ### Main memory, by logical bit index (20_memory.md R51) -/

/-- Logical bit `i` of main memory: index `i mod 17` of word `i / 17`.  Its callers check the range (log 21). -/
def State.bit (s : State) (i : Nat) : Bool :=
  (s.word (i / Config.wordBits)).getMsbD (i % Config.wordBits)

/-- Logical bit `i` of main memory made `b`.  Its callers check the range (log 21). -/
def State.putBit (s : State) (i : Nat) (b : Bool) : State :=
  s.setWord (BitVec.ofNat 10 (i / Config.wordBits))
    (BitMemory.put (s.word (i / Config.wordBits)) (i % Config.wordBits) b)

/-- Bits `a .. a+n-1` in index order. -/
def State.bits (s : State) (a n : Nat) : BitVec n :=
  match n with
  | 0 => 0#0
  | n + 1 => (s.bits a n).concat (s.bit (a + n))

/-- Bits `a .. a+k-1` replaced by the first `k` bits of `v`. -/
def State.putBits {n : Nat} (s : State) (a : Nat) (v : BitVec n) (k : Nat) : State :=
  match k with
  | 0 => s
  | k + 1 => (s.putBits a v k).putBit (a + k) (v.getMsbD k)

/-- `MemRead(a, n)` (00_scope.md R9).  Out of range the fault records `a + n`, the sum that R9 compares with
`MEM_BITS`: DESIGN CHOICE (log 15), safe. -/
def memRead (s : State) (a n : Nat) : Except Fault (BitVec n) :=
  if Config.memBits < a + n then .error (.outOfBounds .bit (a + n)) else .ok (s.bits a n)

/-- `MemWrite(a, n, v)` (00_scope.md R9).  Out of range the fault records `a + n`: DESIGN CHOICE (log 15),
safe. -/
def memWrite {n : Nat} (s : State) (a : Nat) (v : BitVec n) : Except Fault State :=
  if Config.memBits < a + n then .error (.outOfBounds .bit (a + n)) else .ok (s.putBits a v n)

end Sys2Proof.Machine
end

