-- ==== Sys2Proof/Machine/Loader.lean ====
section
/-!
DEFINITION. The two loaders (70_reset_and_hazards.md): construction with the BootstrapLoader, and the
TapeLoader.
-/

namespace Sys2Proof.Machine

/-! ### Construction (R251, R252) -/

/-- Words `0 .. count-1` zero and their tags the default. -/
def zeroWords (count : Nat) (s : State) : State :=
  match count with
  | 0 => s
  | k + 1 =>
    ((zeroWords k s).setWord (BitVec.ofNat 10 k) 0#17).setTag (BitVec.ofNat 10 k) Tag.blank

/-- A core with configuration `c` before the BootstrapLoader runs (70_reset_and_hazards.md R251, points
1 to 4): every register and every word zero, every tag the default.  Words and tags from 31 on read so
when nothing is listed. -/
def blankCore (c : Config) : State :=
  zeroWords Config.romWords
    { State.reset with
      acc := BitMemory.make 71
      mr := BitMemory.make 35
      md := BitMemory.make 35
      ot := BitMemory.make 17
      scr := BitMemory.make 10
      config := c }

/-- A word with the tag that R254 gives it, written at word `w`. -/
def storeRom (s : State) (w : Nat) (v : Word) : State :=
  (s.setWord (BitVec.ofNat 10 w) v).setTag (BitVec.ofNat 10 w) (tagOfWord s.config.codeTable v)

/-- The BootstrapLoader's first `count` words (70_reset_and_hazards.md R252): the bits of each pattern
verbatim, and the tag of R254. -/
def bootstrapWords (count : Nat) (s : State) : State :=
  match count with
  | 0 => s
  | k + 1 => storeRom (bootstrapWords k s) k (patternWord (romPattern s.config k))

/-- BootstrapLoader (70_reset_and_hazards.md R252), of the core's own `BOOT_ROM`. -/
def bootstrapLoad (s : State) : State := bootstrapWords Config.romWords s

/-- Construction of a core with configuration `c` (70_reset_and_hazards.md R251), ending with the
BootstrapLoader. -/
def construct (c : Config) : State := bootstrapLoad (blankCore c)

/-! ### The TapeLoader (R260 to R265) -/

/-- How a call of `loadTape` ends. -/
inductive LoadReport where
  /-- The call came outside Idle (70_reset_and_hazards.md R260). -/
  | refused
  /-- The tape is loaded (R263). -/
  | loaded
  /-- The load stopped at this line, counted from 1, with this fault (R264). -/
  | failed (line : Nat) (f : Fault)
  deriving DecidableEq, Repr

/-- The load failure a line's parse error is surfaced as (60_exceptions.md R222, R225). -/
def loadFault (line : Nat) (e : LineError) : Fault :=
  match e with
  | .unknownSymbol c => .unknownInstruction line c
  | .malformed p => .malformedInstructionLine line p

/-- The tag of a loaded line (70_reset_and_hazards.md R262). -/
def tagOfLine (r : LineRecord) : Tag where
  letter := some r.symbol
  hasAddress := r.hasAddress
  address := r.address
  length := r.length

/-- The word of a line that is no comment under table `t`, or the fault it fails with at line `i`. -/
def lineWord (t : CodeTable) (i : Nat) (line : TapeLine) : Except Fault (LineRecord × Word) :=
  match parseInstructionLine t line with
  | .error e => .error (loadFault i e)
  | .ok r =>
    match encodeWord t r with
    | some w => .ok (r, w)
    | none => .error (.unknownInstruction i r.symbol.char)

/-- One consumed line written at word `w` (70_reset_and_hazards.md R262). -/
def storeLine (s : State) (w : Nat) (r : LineRecord) (v : Word) : State :=
  (s.setTag (BitVec.ofNat 10 w) (tagOfLine r)).setWord (BitVec.ofNat 10 w) v

/-- The load loop from line `i` and word `w` on (70_reset_and_hazards.md R262), with the words
written so far when a line fails. -/
def loadLines (lines : List TapeLine) (i w : Nat) (s : State) : LoadReport × State :=
  match lines with
  | [] => (.loaded, { s with programLoaded := true })
  | line :: lines =>
    if isComment line then loadLines lines (i + 1) w s
    else if Config.memWords ≤ w then (.failed i (.outOfBounds .load w), s)
    else
      match lineWord s.config.codeTable i line with
      | .error f => (.failed i f, s)
      | .ok (r, v) => loadLines lines (i + 1) (w + 1) (storeLine s w r v)

/-- What a load leaves behind (70_reset_and_hazards.md R264): `LOAD_ATOMIC = atomic` undoes a failed
load. -/
def settleLoad (s : State) (r : LoadReport × State) : LoadReport × State :=
  match r.1, s.config.loadAtomic with
  | .failed i f, .atomic => (.failed i f, s)
  | _, _ => r

/-- `loadTape(lines)` (70_reset_and_hazards.md R260): admitted in status Idle only. -/
def loadTape (s : State) (lines : List TapeLine) : LoadReport × State :=
  match s.status with
  | .idle => settleLoad s (loadLines lines 1 Config.tapeBase s)
  | .running => (.refused, s)
  | .halted => (.refused, s)
  | .faulted _ => (.refused, s)
  | .resetRequested => (.refused, s)

end Sys2Proof.Machine
end

