-- ==== Sys2Proof/Machine/HostOps.lean ====
section
/-!
DEFINITION. The host's other operations (40_engine.md R125, R129, R130): `start()` run under fuel, the flag
writes and the read accessors.  `reset()` is `hostReset` (Ops.lean), `loadTape` is in Loader.lean.
-/

namespace Sys2Proof.Machine

/-- What `admission()` reports (40_engine.md R111). -/
def admissionReport (s : State) : Report :=
  match admission s with
  | .ok _ => .admitted
  | .error r => r

/-- `step()` as the host calls it (40_engine.md R124): the report and the outcome. -/
def hostStep (s : State) : Report × Host.Outcome State Fault Refusal :=
  (admissionReport s, step s)

/-- `iterate` repeated while the status is Running (40_engine.md R125), at most `fuel` times (R127);
a state that is still Running at the end has used up its fuel.  DESIGN CHOICE (log 18), safe. -/
def runWhileRunning (fuel : Nat) (s : State) : Host.Outcome State Fault Refusal :=
  match fuel with
  | 0 => .next s
  | fuel + 1 =>
    if s.status = .running then
      match iterate s with
      | .next t => runWhileRunning fuel t
      | .fault f => .fault f
      | .refused r => .refused r
    else .next s

/-- `start()` (40_engine.md R125, R126): with `stepMode`, one iteration; without, the loop. -/
def hostStart (fuel : Nat) (s : State) : Report × Host.Outcome State Fault Refusal :=
  match admission s with
  | .error r => (r, .next s)
  | .ok t => (.admitted, if t.stepMode then iterate t else runWhileRunning fuel t)

/-- The host sets `stepMode` (10_state.md R34). -/
def setStepMode (s : State) (b : Bool) : State := { s with stepMode := b }

/-- The host sets `debugMode` (10_state.md R34). -/
def setDebugMode (s : State) (b : Bool) : State := { s with debugMode := b }

/-- The five architected registers (10_state.md R21). -/
inductive Register where
  | acc
  | mr
  | md
  | ot
  | scr
  deriving DecidableEq, Repr

/-- A host read of one register bit (40_engine.md R130): none where the index is out of range. -/
def readRegisterBit (s : State) (r : Register) (i : Nat) : Option Bool :=
  match r with
  | .acc => (BitMemory.test s.acc i).toOption
  | .mr => (BitMemory.test s.mr i).toOption
  | .md => (BitMemory.test s.md i).toOption
  | .ot => (BitMemory.test s.ot i).toOption
  | .scr => (BitMemory.test s.scr i).toOption

/-- A host read of one memory bit by logical index (40_engine.md R130, 20_memory.md R66): none where
the index is out of range. -/
def readMemoryBit (s : State) (i : Nat) : Option Bool :=
  if i < Config.memBits then some (s.bit i) else none

/-- A host read of the tag of word `w` (40_engine.md R130, 10_state.md R30): none where there is no word
`w`.  R130 admits tag reads "always" and refuses an index out of range; that the second holds for
`w ≥ 1024` is a DESIGN CHOICE (log 21), safe. -/
def readTag (s : State) (w : Nat) : Option Tag :=
  if w < Config.memWords then some (s.tag w) else none

end Sys2Proof.Machine
end

