-- ==== Sys2Proof/WellFormed.lean ====
section
/-!
DEFINITION. Which terms of `Instr` a word can decode to, and which code tables and images are lawful values
of their parameters.

The operand and length of every constructor are in range by their types.  What remains are two
checks on the opcode, against the code table.
-/

namespace Sys2Proof

/-- The symbol is the first candidate of its own code (30_encoding.md R78): under `CODE_TABLE` this
refuses `!` alone, which shares W's code and never comes back (R79). -/
def Symbol.isFirst (t : CodeTable) (s : Symbol) : Bool :=
  (codeOf t s).bind (firstSymbol t) == some s

/-- The code has no symbol (30_encoding.md R78): under `CODE_TABLE` this holds of `10100` alone. -/
def Code.isUnknown (t : CodeTable) (c : Code) : Bool := (firstSymbol t c).isNone

/-- An order is well formed when some word decodes to it: its symbol is the first candidate of its
code, or it is the unknown order of a code without a symbol. -/
def Instr.wellFormedIn (t : CodeTable) (i : Instr) : Bool :=
  match i with
  | .unknownCode c _ _ => Code.isUnknown t c
  | i =>
    match i.symbol with
    | some s => Symbol.isFirst t s
    | none => false

/-- Well formed under `CODE_TABLE`. -/
def Instr.wellFormed (i : Instr) : Bool := i.wellFormedIn codeTable

/-- What any `CODE_TABLE` must satisfy (30_encoding.md R76), over the alphabet of R75: it lists each of
the 32 symbols once, `!` and W share one code, and no other two do.  R76 leaves the other tables' remaining
characters open and states no other collision: that they are R75's, and that there is none, is a DESIGN
CHOICE (log 20), unsafe. -/
structure CodeTable.Lawful (t : CodeTable) : Prop where
  listsEverySymbol : ∀ s, (codeOf t s).isSome = true
  listsNoneTwice : (t.map Prod.fst).Nodup
  bangSharesW : codeOf t .bang = codeOf t .W
  noOtherCollision : ∀ r s, codeOf t r = codeOf t s → r ≠ s →
    (r = .W ∧ s = .bang) ∨ (r = .bang ∧ s = .W)

/-- What any `BOOT_ROM` must satisfy (70_reset_and_hazards.md R252): 31 patterns, each of 17 characters
`0` or `1` when its spaces are removed. -/
def bootRomLawful (rom : List String) : Bool :=
  rom.length == 31 && rom.all fun p =>
    (p.toList.filter (· != ' ')).length == 17 &&
      (p.toList.filter (· != ' ')).all fun b => b == '0' || b == '1'

end Sys2Proof
end

