-- ==== Sys2Proof/Safety.lean ====
section
/-!
DEFINITION. The terms claims are stated in: the end of a run, the invariant of a state, the states a host
can reach, and states that differ only in bits no order reads.
-/

namespace Sys2Proof.Machine

/-- The status ends a run (40_engine.md R128). -/
def Status.ends (st : Status) : Bool :=
  match st with
  | .idle => false
  | .running => false
  | .halted => true
  | .faulted _ => true
  | .resetRequested => true

/-- `step()` lets the machine run: it is loaded and has not stopped (40_engine.md R111). -/
def State.admitted (s : State) : Bool := s.programLoaded && !s.status.ends

/-- The only successful end of a run (40_engine.md R128). -/
def State.succeeded (s : State) : Bool := s.status == .halted

/-- `k` calls of `step()`. -/
def stepTimes (k : Nat) (s : State) : Host.Outcome State Fault Refusal :=
  match k with
  | 0 => .next s
  | k + 1 =>
    match step s with
    | .next t => stepTimes k t
    | .fault f => .fault f
    | .refused r => .refused r

/-- The tag invariant (10_state.md R31): the tag's address and length are those of the word. -/
def State.tagsMatch (s : State) : Prop :=
  ∀ w, w < 1024 →
    (s.tag w).address = s.addr w ∧ ((s.tag w).length = .long ↔ (s.word w).getMsbD 16 = true)

/-- The invariant of the machine: memory and tags in canonical form (20_memory.md R51), `pc` in
0..1024 (10_state.md R28), the tag invariant (R31). -/
structure State.Inv (s : State) : Prop where
  memory : Memory.wf s.config s.mem = true
  tags : Tags.wf s.config s.tags = true
  pc : s.pc ≤ 1024
  tagsAgree : s.tagsMatch

/-- The symbol word `w` is dispatched by, under the core's own code table (30_encoding.md R80,
40_engine.md R116); none for a code without a symbol. -/
def State.symbolAt (s : State) (w : Nat) : Option Symbol :=
  firstSymbol s.config.codeTable (s.opc w)

/-- No word has an opcode without a symbol (30_encoding.md R75: `10100` under `CODE_TABLE`). -/
def State.noUnknownOpcode (s : State) : Prop := ∀ w, w < 1024 → s.symbolAt w ≠ none

/-- The states a host can bring a core built with configuration `c` into (40_engine.md R130; DESIGN
CHOICE, log 6, safe). -/
inductive Reachable (c : Config) : State → Prop where
  | built : Reachable c { State.reset with config := c }
  | step {s t : State} : Reachable c s → step s = .next t → Reachable c t
  | start {s t : State} {fuel : Nat} : Reachable c s → (hostStart fuel s).2 = .next t →
      Reachable c t
  | load {s : State} (lines : List TapeLine) : Reachable c s → Reachable c (loadTape s lines).2
  | reset {s : State} : Reachable c s → Reachable c (hostReset s)
  | setStepMode {s : State} (b : Bool) : Reachable c s → Reachable c (setStepMode s b)
  | setDebugMode {s : State} (b : Bool) : Reachable c s → Reachable c (setDebugMode s b)

/-- Two words that agree in opcode and address, so at most in the spare and the length bit apart
(30_encoding.md R72, R73). -/
def wordsAlike (v w : Word) : Prop :=
  opcodeField v = opcodeField w ∧ addressField v = addressField w

/-- Two states that are equal but for spare and length bits, of memory and of the Order Tank, and
for the tags' copies of the length (30_encoding.md R72, R73). -/
structure AlikeButIgnoredBits (s t : State) : Prop where
  acc : s.acc = t.acc
  mr : s.mr = t.mr
  md : s.md = t.md
  ot : wordsAlike s.ot t.ot
  scr : s.scr = t.scr
  pc : s.pc = t.pc
  word : ∀ w, wordsAlike (s.word w) (t.word w)
  letter : ∀ w, (s.tag w).letter = (t.tag w).letter
  hasAddress : ∀ w, (s.tag w).hasAddress = (t.tag w).hasAddress
  address : ∀ w, (s.tag w).address = (t.tag w).address
  status : s.status = t.status
  programLoaded : s.programLoaded = t.programLoaded
  stepMode : s.stepMode = t.stepMode
  debugMode : s.debugMode = t.debugMode
  output : s.output = t.output
  config : s.config = t.config
  draws : s.draws = t.draws

/-- Under `CODE_TABLE` every word with opcode `c` decodes to the order `k`, whatever its spare bit, with the word's
address and length fields as its operands. -/
def decodesAs (c : Code) (k : Addr → Length → Instr) : Prop :=
  ∀ w : Word, opcodeField w = c → decode w = k (addressField w) (Length.ofFlag (lengthField w))

/-- Logical bit `i` lies in the address field of word `n`: bits 17n+6 .. 17n+15 (20_memory.md R55). -/
abbrev inAddressField (n : Addr) (i : Nat) : Prop := 17 * n.toNat + 6 ≤ i ∧ i < 17 * n.toNat + 16

/-- The 24 symbols whose orders have no handler and whose code is their own (30_encoding.md R81,
R82). -/
def unhandledSymbols : List Symbol :=
  [.P, .Q, .W, .E, .R, .Y, .I, .J, .hash, .K, .star, .dot, .F, .at, .D, .H, .N, .M, .amp, .L, .X,
    .B, .C, .V]

end Sys2Proof.Machine
end

