-- ==== Sys2Proof/Certificates/Slice0/Obligations.lean ====
section
/-!
DEFINITION. The statements for the provers, by the section files of spec/ they formalise.  A rule that the
spec marks as its own decision (D<n>) is named with it; a clause that rests on an inference of the spec
or on an entry of notes/assumptions says so.  Statements about a state hold for every code table and
bootstrap image it carries; one that names an opcode names `CODE_TABLE` (log 8) by `decode`, `decodesAs` or
`codeTable`, and one that names the spec's image names `bootRom` (log 9).  Every code table is one over the
alphabet of R75, which is the model's choice for a table other than R75's (log 20).  Where a clause is about
every word or tag index, its part past word 1023 is about the model's total accessors (log 21).
-/

open Sys2Proof Sys2Proof.Machine

/-! ### 30_encoding.md -/

/-- Decoding an encoded order gives it back, under EVERY code table, for every order the table can
decode to and every operand.  The spare bit is written 1 (R84, log 12).  Rests on the spec's own inference
R80, and for the order of a code without a symbol on the model's choice to keep its address and length
and to encode them (log 11). -/
def Obligations.DecodeReadsBackEveryEncoding : Prop :=
  ∀ (t : CodeTable) (i : Instr), i.wellFormedIn t = true →
    ∃ w, encodeWith t i = some w ∧ spareField w = 1#1 ∧ decodeWith t w = i

/-- Every word decodes to a well-formed order, and encoding that order gives the word back with its
spare bit 1 and every other bit as it was: decode drops no bit but the spare.  Rests on the spec's own
inferences R72 and R80, on R84 for the encoding of a symbol's order with its spare bit 1, which encode
follows for every order (log 12), and for the words with opcode `10100` on the model's choice to keep the
address and the length beside the code of R80's Unknown(c), and to encode them back (log 11). -/
def Obligations.EncodeReadsBackEveryWord : Prop :=
  ∀ w : Word, (decode w).wellFormed = true ∧ encode (decode w) = some (w ||| 0x00800#17)

/-- Words of R87, R253 and 95_test_vectors.md, written out bit by bit, decode to their orders.  That the
order of code `10100` also holds its address and length is the model's choice (log 11). -/
def Obligations.SpecWordsDecodeToTheirOrders : Prop :=
  decode 0b11100100000111110#17 = .orderA 31#10 .short ∧
  decode 0b11100100000111111#17 = .orderA 31#10 .long ∧
  decode 0b11100000000111110#17 = .orderA 31#10 .short ∧
  decode 0b01100000000001010#17 = .orderS 5#10 .short ∧
  decode 0b00101100000000001#17 = .orderT 0#10 .long ∧
  decode 0b00111111111111111#17 = .orderU 1023#10 .long ∧
  decode 0b11011100000001110#17 = .orderG 7#10 .short ∧
  decode 0b01001100000111110#17 = .orderO 31#10 .short ∧
  decode 0b01101100000000000#17 = .orderZ 0#10 .short ∧
  decode 0b10101100000001010#17 = .orderH 5#10 .short ∧
  decode 0b00010100000001010#17 = .orderW 5#10 .short ∧
  decode 0b10100100000000000#17 = .unknownCode 0b10100#5 0#10 .short

/-- Codec round trip (R79, an inference of the spec) for every table that lists no symbol twice, as
`CODE_TABLE` does: a symbol is among the candidates of its code, and the first candidate of a code
encodes to it. -/
def Obligations.SymbolsAndCodesRoundTrip : Prop :=
  (codeTable.map Prod.fst).Nodup ∧
  ∀ t : CodeTable, (t.map Prod.fst).Nodup →
    (∀ s c, codeOf t s = some c → s ∈ candidates t c) ∧
    (∀ s c, firstSymbol t c = some s → codeOf t s = some c)

/-- What the source fixes of the table (R76), over the alphabet of R75 and with no other collision, which
for another table is the model's choice (log 20): `CODE_TABLE` satisfies it; and under every table that does,
each symbol but W and `!` is the only candidate of its code, and the code of these two has just the
two.  So the choice of the first candidate never changes a dispatch (R80, an inference of the spec). -/
def Obligations.LawfulTablesShareOneCode : Prop :=
  codeTable.Lawful ∧
  ∀ (t : CodeTable) (s : Symbol) (c : Code), t.Lawful → codeOf t s = some c →
    if s = .W ∨ s = .bang then
      decodeOpcode t c = some [.W, .bang] ∨ decodeOpcode t c = some [.bang, .W]
    else decodeOpcode t c = some [s]

/-- `parseInstructionLine` and `encodeWord` (R84; decisions D19 to D22), for every lawful
table, whose alphabet is the model's choice (log 20): an empty line and a first character without a symbol fail; otherwise the line is its symbol, its
leading digits `ds` and a rest that starts with no digit, and the record and its word are as the rule
gives them. -/
def Obligations.TapeLinesParseAndEncode : Prop :=
  ∀ t : CodeTable, t.Lawful →
    parseInstructionLine t [] = .error (.malformed .emptyLine) ∧
    (∀ c rest, symbolOfChar t c = none →
      parseInstructionLine t (c :: rest) = .error (.unknownSymbol c)) ∧
    (∀ c s ds rest, symbolOfChar t c = some s → (∀ d ∈ ds, isDigit d = true) →
      (∀ d, rest.head? = some d → isDigit d = false) →
      parseInstructionLine t (c :: (ds ++ rest)) =
        if 1023 < decimal ds then .error (.malformed .addressAbove1023)
        else .ok
          { symbol := s
            hasAddress := decide (ds ≠ [])
            address := BitVec.ofNat 10 (decimal ds)
            length := if rest.head? = some 'D' then .long else .short }) ∧
    (∀ c s, symbolOfChar t c = some s ↔ s.char = c) ∧
    (∀ r : LineRecord, ∃ c, codeOf t r.symbol = some c ∧
      ∃ w, encodeWord t r = some w ∧
        w.toNat = 4096 * c.toNat + 2048 + 2 * r.address.toNat +
          (match r.length with | .long => 1 | .short => 0))

/-- What a loaded line runs as: under every lawful table, whose alphabet is the model's choice (log 20), a
line's word decodes to the first
candidate of its symbol's code, with the line's address and length; under `CODE_TABLE` that is its own
symbol, but W for `!` (R78, R86). -/
def Obligations.LoadedLinesDecodeToTheirOrders : Prop :=
  (∀ (t : CodeTable) (r : LineRecord), t.Lawful → ∃ w, encodeWord t r = some w ∧
    decodeWith t w = Instr.ofSymbol (firstCandidate t r.symbol) r.address r.length) ∧
  ∀ s, firstCandidate codeTable s = if s = .bang then .W else s

/-! ### 20_memory.md -/

/-- The BitMemory primitive (R50): `make` is all 0; for a valid index `set` and `clear` write that
bit and no other, and `test` reads it; every operation faults `OutOfBounds` on an index out of
range. -/
def Obligations.BitMemoryKeepsItsLaws : Prop :=
  ∀ capacity : Nat,
    (∀ i, i < capacity → BitMemory.test (BitMemory.make capacity) i = .ok false) ∧
    ∀ (m : BitVec capacity) (i : Nat),
      (i < capacity →
        ∃ u v, BitMemory.set m i = .ok u ∧ BitMemory.clear m i = .ok v ∧
          BitMemory.test u i = .ok true ∧ BitMemory.test v i = .ok false ∧
          ∀ j, j ≠ i → BitMemory.test u j = BitMemory.test m j ∧
            BitMemory.test v j = BitMemory.test m j) ∧
      (capacity ≤ i → ∃ k j,
        BitMemory.test m i = .error (.outOfBounds k j) ∧
        BitMemory.set m i = .error (.outOfBounds k j) ∧
        BitMemory.clear m i = .error (.outOfBounds k j))

/-- The word accessors are the bit reads the spec defines them by (R56, C3): `Opc(w)`, `Addr(w)` and
`Word(w)` for every word of memory. -/
def Obligations.WordAccessorsAreBitReads : Prop :=
  ∀ (s : State) (w : Nat), w < 1024 →
    memRead s (17 * w) 5 = .ok (s.opc w) ∧
    memRead s (17 * w + 6) 10 = .ok (s.addr w) ∧
    memRead s (17 * w) 17 = .ok (s.word w)

/-- The word and field writes are the bit-by-bit writes of the pseudocode: `MemWrite(17·w, 17, v)`
and `MemWrite(17·n + 6, 10, a)` leave exactly the same memory, as data, in canonical form. -/
def Obligations.WordWritesAreBitWrites : Prop :=
  ∀ s : State, Memory.wf s.config s.mem = true →
    (∀ (w : Addr) (v : Word), memWrite s (17 * w.toNat) v = .ok (s.setWord w v)) ∧
    (∀ n a : Addr, memWrite s (17 * n.toNat + 6) a =
      .ok { s with mem := (s.setAddr n a).mem })

/-- The store of U (and of T when it stores) writes the ten bits of word n's address field and
`tag[n].address`, and nothing else: every other bit of memory, every other tag field, every
register keeps its value. -/
def Obligations.AddressStoreWritesOnlyItsField : Prop :=
  ∀ (s : State) (n a : Addr),
    (∀ i, inAddressField n i → (s.setAddr n a).bit i = a.getMsbD (i - (17 * n.toNat + 6))) ∧
    (∀ i, ¬inAddressField n i → (s.setAddr n a).bit i = s.bit i) ∧
    (∀ w, (s.setAddr n a).tag w =
      if w = n.toNat then { s.tag w with address := a } else s.tag w) ∧
    s.setAddr n a = { s with mem := (s.setAddr n a).mem, tags := (s.setAddr n a).tags }

/-- A step changes a bit of memory only as a store: the order at `pc` is U, or T away from word 31
in `store_then_clear` mode, and the bit lies in the address field of its operand (R54, R55). -/
def Obligations.OnlyStoresChangeMemory : Prop :=
  ∀ (s t : State) (i : Nat), step s = .next t → t.bit i ≠ s.bit i →
    inAddressField (s.addr s.pc) i ∧
    (s.symbolAt s.pc = some .U ∨
      (s.symbolAt s.pc = some .T ∧ s.pc ≠ 31 ∧ s.config.tMode = .storeThenClear))

/-- With `ROM_WRITE = fault` no step changes a word of the bootstrap image (R60, decision D8). -/
def Obligations.ProtectedRomNeverChanges : Prop :=
  ∀ (s t : State) (w : Nat), s.config.romWrite = .fault → w < 31 → step s = .next t →
    t.word w = s.word w

/-- A store by U is seen by the next fetch of that word, and the order already in OT is not changed,
also when U stores into its own word (R64, decision D17). -/
def Obligations.StoredFieldIsFetchedNext : Prop :=
  ∀ (n : Addr) (l : Length) (s : State), s.acc.toNat < 2 ^ 10 →
    ¬(n.toNat < 31 ∧ s.config.romWrite = .fault) →
    ∃ t, exec (.orderU n l) s = .next t ∧ t.ot = s.ot ∧
      ∃ u : Word, (fetch { t with pc := n.toNat }).ot = u ∧
        opcodeField u = s.opc n.toNat ∧ (addressField u).toNat = s.acc.toNat ∧
        lengthField u = lengthField (s.word n.toNat)

/-! ### 40_engine.md -/

/-- A step runs the order decoded under the core's own code table (R112, R113, R116): fetch copies `Word(pc)` into OT and `bin_10(pc)`
into SCR and writes nothing else, then the step is `exec` of the decoded order in that state; a `pc`
out of range faults before anything is written. -/
def Obligations.StepRunsTheDecodedOrder : Prop :=
  ∀ s : State, s.admitted = true →
    (s.pc < 1024 →
      step s = exec (decodeWith s.config.codeTable (s.word s.pc))
        { s with status := .running, ot := s.word s.pc, scr := BitVec.ofNat 10 s.pc }) ∧
    (1024 ≤ s.pc →
      step s = .next { s with status := .faulted (.outOfBounds .fetch s.pc) })

/-- Admission (R111, R241): `admission` refuses a call without a program, or in a status that ends a run;
the report says which, and no state changes; every other call is admitted and is Running. -/
def Obligations.AdmissionDecidesWhatRuns : Prop :=
  ∀ (fuel : Nat) (s : State),
    (s.programLoaded = false →
      (hostStep s).1 = .noProgramLoaded ∧ (hostStart fuel s).1 = .noProgramLoaded) ∧
    (s.programLoaded = true → s.status.ends = true →
      (hostStep s).1 = .stopped s.status ∧ (hostStart fuel s).1 = .stopped s.status) ∧
    (s.admitted = false → ∀ t,
      ((hostStep s).2 = .next t → t = s) ∧ ((hostStart fuel s).2 = .next t → t = s)) ∧
    (s.admitted = true →
      (hostStep s).1 = .admitted ∧ (hostStart fuel s).1 = .admitted ∧
      admission s = .ok { s with status := .running })

/-- A faulted iteration (R122, decision D15) writes the status alone, beside what fetch wrote: OT
and SCR are as fetch left them, or as before when fetch itself faulted; and `Faulted` is kept by every
further step and left by `reset()`. -/
def Obligations.FaultsWriteOnlyTheStatus : Prop :=
  (∀ (s t : State) (f : Fault), s.admitted = true → step s = .next t → t.status = .faulted f →
    t = if s.pc < 1024 then
      { s with ot := s.word s.pc, scr := BitVec.ofNat 10 s.pc, status := .faulted f }
    else { s with status := .faulted f }) ∧
  (∀ (s t : State) (f : Fault), s.status = .faulted f →
    (step s = .next t → t = s) ∧ (hostReset s).status = .idle)

/-- The ways a step leaves Running (R110): Halted exactly by Z, ResetRequested only by O emitting
the sentinel; never Idle. -/
def Obligations.StatusMovesAsTheTableSays : Prop :=
  ∀ s t : State, s.admitted = true → step s = .next t →
    (t.status = .halted ↔ s.pc < 1024 ∧ s.symbolAt s.pc = some .Z) ∧
    (t.status = .resetRequested → s.symbolAt s.pc = some .O ∧
      ∃ c, s.config.haltSentinel = some c ∧ t.output = s.output ++ [c]) ∧
    t.status ≠ .idle

/-- Normal completion (R121): after every iteration that raises no fault, `pc` is one further, except
after a G that branches, when it is G's operand; and the status stays Running unless Z or O ran. -/
def Obligations.CompletionAdvancesThePc : Prop :=
  ∀ s t : State, s.admitted = true → step s = .next t → (∀ f, t.status ≠ .faulted f) →
    (t.pc =
      if s.symbolAt s.pc = some .G ∧
          s.acc.getMsbD 0 = (s.config.gPolarity == .branchIfNegative) then
        (s.addr s.pc).toNat
      else s.pc + 1) ∧
    (s.symbolAt s.pc ≠ some .Z → s.symbolAt s.pc ≠ some .O → t.status = .running)

/-- No step is refused and none ends the machine: every order of every word has an effect, in every
state and configuration. -/
def Obligations.EveryStepAnswersANextState : Prop :=
  (∀ (i : Instr) (s : State), ∃ t, exec i s = .next t) ∧ ∀ s : State, ∃ t, step s = .next t

/-- `start()` (R125, R126): with `stepMode` it is `step()`; without, it is the step repeated, which
stops changing the state when the status leaves Running. -/
def Obligations.StartIsTheStepRepeated : Prop :=
  ∀ (fuel : Nat) (s : State), s.admitted = true →
    hostStart fuel s =
      (.admitted, if s.stepMode then step s else stepTimes fuel { s with status := .running })

/-- Host reads (R130, R66), one bit at a time by index: bit `17·w + k` of memory is index k of word w,
bit i of a register its index i, and an index out of range is refused.  A tag is read whole (R30); that a
read of the tag of word 1024 or above is refused is the model's choice (log 21). -/
def Obligations.HostReadsOneBit : Prop :=
  ∀ s : State,
    (∀ w k, w < 1024 → k < 17 → readMemoryBit s (17 * w + k) = some ((s.word w).getMsbD k)) ∧
    (∀ i, 17408 ≤ i → readMemoryBit s i = none) ∧
    (∀ w, readTag s w = if w < 1024 then some (s.tag w) else none) ∧
    ∀ i,
      readRegisterBit s .acc i = (if i < 71 then some (s.acc.getMsbD i) else none) ∧
      readRegisterBit s .mr i = (if i < 35 then some (s.mr.getMsbD i) else none) ∧
      readRegisterBit s .md i = (if i < 35 then some (s.md.getMsbD i) else none) ∧
      readRegisterBit s .ot i = (if i < 17 then some (s.ot.getMsbD i) else none) ∧
      readRegisterBit s .scr i = (if i < 10 then some (s.scr.getMsbD i) else none)

/-! ### 41_arithmetic.md -/

/-- A, add (R141, decisions D5 and D26), for every operand, length tag and state: no effect without
an address operand; else the exact sum with the ten bits read at `17·n + 6`, or the overflow fault
with nothing written.  Every other part of the state is unchanged. -/
def Obligations.AddOrderAddsOrFaults : Prop :=
  decodesAs 0b11100#5 .orderA ∧
  ∀ (n : Addr) (l : Length) (s : State), ∃ v : Addr,
    memRead s (17 * n.toNat + 6) 10 = .ok v ∧
    exec (.orderA n l) s = .next
      (if (s.tag s.pc).hasAddress = false then { s with pc := s.pc + 1 }
       else if 2 ^ 70 ≤ s.acc.toNat + v.toNat then
         { s with status := .faulted (.accumulatorOverflow s.acc v) }
       else { s with acc := BitVec.ofNat 71 (s.acc.toNat + v.toNat), pc := s.pc + 1 })

/-- The value A writes reads back as the sum, over all 71 bits (R142, decision D5). -/
def Obligations.AddedSumReadsBack : Prop :=
  ∀ (n : Addr) (l : Length) (s : State), (s.tag s.pc).hasAddress = true →
    s.acc.toNat + (s.addr n.toNat).toNat < 2 ^ 70 →
    ∃ t, exec (.orderA n l) s = .next t ∧
      t.acc.toNat = s.acc.toNat + (s.addr n.toNat).toNat ∧ t.acc.getMsbD 0 = false

/-- The sign bit stays clear: no step sets `ACC⟨0⟩`, in any configuration (R140). -/
def Obligations.SignBitStaysClear : Prop :=
  ∀ s t : State, s.acc.getMsbD 0 = false → step s = .next t → t.acc.getMsbD 0 = false

/-- A program cannot subtract (R146, an inference of the spec): only T decreases ACC, away from word
31, and it leaves 0. -/
def Obligations.OnlyTDecreasesTheAccumulator : Prop :=
  ∀ s t : State, step s = .next t → t.acc.toNat < s.acc.toNat →
    s.symbolAt s.pc = some .T ∧ s.pc ≠ 31 ∧ t.acc = 0#71

/-- S, subtract (R145): completes and writes nothing, for every operand, length tag and state. -/
def Obligations.SubtractOrderOnlyCompletes : Prop :=
  decodesAs 0b01100#5 .orderS ∧
  ∀ (n : Addr) (l : Length) (s : State),
    exec (.orderS n l) s = .next { s with pc := s.pc + 1 }

/-! ### 42_transfer.md -/

/-- T, transfer-and-clear (R161, decision D6), in both modes: no effect at word 31; `legacy` clears
ACC; `store_then_clear` stores as U does, with its faults, and clears.  A bit of memory outside the
operand's address field is never changed. -/
def Obligations.TransferOrderClears : Prop :=
  decodesAs 0b00101#5 .orderT ∧
  ∀ (n : Addr) (l : Length) (s : State),
    exec (.orderT n l) s = .next
      (if s.pc = 31 then { s with pc := s.pc + 1 }
       else match s.config.tMode with
         | .legacy => { s with acc := 0#71, pc := s.pc + 1 }
         | .storeThenClear =>
           if 2 ^ 10 ≤ s.acc.toNat then { s with status := .faulted (.storeOverflow s.acc) }
           else if n.toNat ≤ 30 ∧ s.config.romWrite = .fault then
             { s with status := .faulted (.romWrite n) }
           else
             { s.setAddr n (BitVec.ofNat 10 s.acc.toNat) with acc := 0#71, pc := s.pc + 1 }) ∧
    ∀ t i, exec (.orderT n l) s = .next t → ¬inAddressField n i → t.bit i = s.bit i

/-- U, transfer-no-clear, with its store (R171, R172; decisions D8 and D27): the overflow check, then
the ROM check, then the Accumulator's value in the address field of word n and in its tag; ACC is
unchanged, and so is every bit of memory outside that field. -/
def Obligations.StoreOrderWritesTheAddressField : Prop :=
  decodesAs 0b00111#5 .orderU ∧
  ∀ (n : Addr) (l : Length) (s : State),
    exec (.orderU n l) s = .next
      (if 2 ^ 10 ≤ s.acc.toNat then { s with status := .faulted (.storeOverflow s.acc) }
       else if n.toNat ≤ 30 ∧ s.config.romWrite = .fault then
         { s with status := .faulted (.romWrite n) }
       else { s.setAddr n (BitVec.ofNat 10 s.acc.toNat) with pc := s.pc + 1 }) ∧
    (∀ t i, exec (.orderU n l) s = .next t → ¬inAddressField n i → t.bit i = s.bit i) ∧
    (∀ t, exec (.orderU n l) s = .next t → t.status = s.status → t.pc = s.pc + 1 →
      (t.addr n.toNat).toNat = s.acc.toNat ∧ (t.tag n.toNat).address = t.addr n.toNat ∧
      t.acc = s.acc)

/-! ### 43_control.md -/

/-- G, branch on the Accumulator's sign (R181, decision D7), in both polarities: taken, `pc` is the
operand and SCR one less, and SCR is left open when the operand is 0; not taken, only the completion.
Nothing else is written but `draws`, the model's own count of free values. -/
def Obligations.BranchOrderTestsTheSign : Prop :=
  decodesAs 0b11011#5 .orderG ∧
  ∀ (n : Addr) (l : Length) (s : State), ∃ t, exec (.orderG n l) s = .next t ∧
    if s.acc.getMsbD 0 = (s.config.gPolarity == .branchIfNegative) then
      t = { s with
        pc := n.toNat
        scr := if n = 0#10 then t.scr else BitVec.ofNat 10 (n.toNat - 1)
        draws := t.draws }
    else t = { s with pc := s.pc + 1 }

/-- A taken G to word 0 (R183, decision D28): SCR is the next free value, in the model `scrDraw` at the
count of draws, which advances (log 5).  The statement holds for every value of the draw. -/
def Obligations.BranchToWordZeroDrawsScr : Prop :=
  ∀ (l : Length) (s : State),
    s.acc.getMsbD 0 = (s.config.gPolarity == .branchIfNegative) →
    exec (.orderG 0#10 l) s =
      .next { s with pc := 0, scr := Config.scrDraw s.draws, draws := s.draws + 1 }

/-- Z, stop (R190, decisions D13 and D23): Halted and `pc + 1`, nothing else; after it `step()` and
`start()` are refused until `reset()`. -/
def Obligations.StopOrderHalts : Prop :=
  decodesAs 0b01101#5 .orderZ ∧
  ∀ (n : Addr) (l : Length) (s : State),
    exec (.orderZ n l) s = .next { s with status := .halted, pc := s.pc + 1 } ∧
    ∀ t u fuel, exec (.orderZ n l) s = .next t →
      (step t = .next u → u = t) ∧ ((hostStart fuel t).2 = .next u → u = t) ∧
      (hostReset t).status = .idle

/-! ### 44_output.md -/

/-- O, output (R201, R202; decisions D4 and D29): the ten bits read at `17·n + 6` are the code; 32 or
more, or a code without a symbol, faults with nothing emitted; else the first candidate is emitted, and
the sentinel, whichever the configuration names, requests a reset. -/
def Obligations.OutputOrderEmitsOrFaults : Prop :=
  decodesAs 0b01001#5 .orderO ∧
  ∀ (n : Addr) (l : Length) (s : State), ∃ v : Addr,
    memRead s (17 * n.toNat + 6) 10 = .ok v ∧
    (32 ≤ v.toNat →
      exec (.orderO n l) s = .next { s with status := .faulted (.unknownCode (.field v)) }) ∧
    (v.toNat < 32 → decodeOpcode s.config.codeTable (BitVec.ofNat 5 v.toNat) = none →
      exec (.orderO n l) s = .next
        { s with status := .faulted (.unknownCode (.code (BitVec.ofNat 5 v.toNat))) }) ∧
    (∀ c rest, v.toNat < 32 →
      decodeOpcode s.config.codeTable (BitVec.ofNat 5 v.toNat) = some (c :: rest) →
      exec (.orderO n l) s = .next
        { s with
          output := s.output ++ [c]
          status := if s.config.haltSentinel = some c then .resetRequested else s.status
          pc := s.pc + 1 })

/-- The output only grows, one symbol at a time, and only by O, whose symbol has the operand's
address field as its code (R35, R200).  The field `output` is the model's form of the event list (log 7). -/
def Obligations.OutputGrowsOnlyByO : Prop :=
  ∀ s t : State, step s = .next t →
    t.output = s.output ∨
    (s.symbolAt s.pc = some .O ∧ ∃ c, t.output = s.output ++ [c] ∧
      ∃ d, firstSymbol s.config.codeTable d = some c ∧
        d.toNat = (s.addr (s.addr s.pc).toNat).toNat)

/-! ### Orders without a handler -/

/-- The 24 orders P Q W E R Y I J # K * . F @ D H N M & L X B C V (R119): the decoded order raises
`UnimplementedInstruction` with its symbol; OT, SCR, `pc` and everything but the status are as fetch
left them. -/
def Obligations.UnhandledOrdersFailAtDispatch : Prop :=
  ∀ c ∈ unhandledSymbols, ∀ (n : Addr) (l : Length) (s : State),
    (∃ d, codeOf codeTable c = some d ∧ decodesAs d (Instr.ofSymbol c)) ∧
    exec (Instr.ofSymbol c n l) s =
      .next { s with status := .faulted (.unimplementedInstruction c) }

/-- `!` has no handler, so its order fails as the first candidate of its code, whatever the table; under
`CODE_TABLE` that is W, and no word decodes to `!` (R78, decision D2; that `orderBang` stands in Instr is
the model's, log 10). -/
def Obligations.SharedCodeOrderFailsAsFirstCandidate : Prop :=
  (∀ (n : Addr) (l : Length) (s : State),
    exec (.orderBang n l) s = .next { s with
      status := .faulted (.unimplementedInstruction (firstCandidate s.config.codeTable .bang)) }) ∧
  firstCandidate codeTable .bang = .W ∧
  ∀ (w : Word) (n : Addr) (l : Length), decode w ≠ .orderBang n l

/-- A code without a symbol (R120): the order raises `UnknownCode` with the code and writes nothing
but the status, whatever its address and length; under `CODE_TABLE` exactly the words with opcode `10100`
decode so.  That the decoded order holds the word's address and length, where R80 gives Unknown(c), is the
model's choice (log 11). -/
def Obligations.UnknownCodeFailsAtDispatch : Prop :=
  (∀ w, opcodeField w = 0b10100#5 ↔
    ∃ c n l, decode w = .unknownCode c n l) ∧
  decodesAs 0b10100#5 (.unknownCode 0b10100#5) ∧
  ∀ (c : Code) (n : Addr) (l : Length) (s : State),
    exec (.unknownCode c n l) s =
      .next { s with status := .faulted (.unknownCode (.code c)) }

/-! ### Whole-machine rules -/

/-- The Multiplier, the Multiplicand and the two host flags are neither read nor written by a step:
with any other values in them it does the same and leaves them (R23, R24, R34; decision D16). -/
def Obligations.IdleStateIsNeitherReadNorWritten : Prop :=
  ∀ (s t : State) (mr md : LongWord) (p q : Bool), step s = .next t →
    step { s with mr := mr, md := md, stepMode := p, debugMode := q } =
      .next { t with mr := mr, md := md, stepMode := p, debugMode := q }

/-- The spare and the length bit never change behaviour (R72, R73; decision D18): from two states
that differ only in such bits a step answers two states that differ only in such bits. -/
def Obligations.SpareAndLengthBitsNeverMatter : Prop :=
  ∀ s t u : State, AlikeButIgnoredBits s t → step s = .next u →
    ∃ v, step t = .next v ∧ AlikeButIgnoredBits u v

/-- No step writes a tag's letter, length or `hasAddress`, so a word that was loaded without an
address never adds, also after U gave it a field (R30, R141, C14). -/
def Obligations.StepsKeepTagsButTheirAddress : Prop :=
  ∀ (s t : State) (w : Nat), step s = .next t →
    t.tag w = { s.tag w with address := (t.tag w).address } ∧
    ((t.tag w).address ≠ (s.tag w).address →
      w = (s.addr s.pc).toNat ∧ (t.tag w).address = t.addr w)

/-- No step changes the configuration or `programLoaded` (R33, R37), and draws are taken only by a G
to word 0 (R123).  The fields `config` (log 4) and `draws` (log 5) are the model's. -/
def Obligations.StepsKeepTheConfiguration : Prop :=
  ∀ s t : State, step s = .next t →
    t.config = s.config ∧ t.programLoaded = s.programLoaded ∧
    (t.draws ≠ s.draws → t.draws = s.draws + 1 ∧ s.symbolAt s.pc = some .G ∧ s.addr s.pc = 0#10)

/-! ### Invariants -/

/-- Every step keeps the invariant: memory and tags in the model's canonical form (log 1), `pc` in 0..1024,
and every tag's address and length those of its word (R28 and R31, inferences of the spec). -/
def Obligations.StepKeepsTheInvariant : Prop :=
  ∀ s t : State, s.Inv → step s = .next t → t.Inv

/-- The invariant, with the model's canonical form (log 1), holds at reset. -/
def Obligations.ResetHasTheInvariant : Prop := State.reset.Inv

/-- A tape load keeps the invariant, whether it succeeds, fails or is refused (R31, R262, R264).  The
canonical form in it is the model's (log 1). -/
def Obligations.LoadTapeKeepsTheInvariant : Prop :=
  ∀ (s : State) (lines : List TapeLine), s.Inv → (loadTape s lines).2.Inv

/-- Every state a host can bring the core into has the invariant, in every configuration (R28, R31).
`Reachable` is the model's list of host operations (log 6), the canonical form is the model's (log 1), and
so is the field `config`, which stays that of construction (log 4). -/
def Obligations.ReachableStatesHaveTheInvariant : Prop :=
  ∀ (c : Config) (s : State), Reachable c s → s.Inv ∧ s.config = c

/-- In every reachable state the sign bit is clear, so under the default polarity every G branches
(R181, a corner case).  `Reachable` is the model's list of host operations (log 6). -/
def Obligations.ReachableBranchesAreTaken : Prop :=
  ∀ (c : Config) (s : State), Reachable c s → c.gPolarity = .branchIfNonnegative →
    ∀ (n : Addr) (l : Length), ∃ t, exec (.orderG n l) s = .next t ∧ t.pc = n.toNat

/-- No word without a symbol arises: neither a step nor a tape load makes one, under any code table, since
no order writes an opcode (R55) and a line's opcode is its symbol's (R84); and reset has none, under
`CODE_TABLE` and `BOOT_ROM` (R253).  So dispatch never raises `UnknownCode` (the note of the opcode table's
row). -/
def Obligations.UnknownOpcodeNeverArises : Prop :=
  State.reset.config.codeTable = codeTable ∧ State.reset.config.bootRom = bootRom ∧
  State.reset.noUnknownOpcode ∧
  (∀ s t : State, s.noUnknownOpcode → step s = .next t → t.noUnknownOpcode) ∧
  (∀ (s : State) (lines : List TapeLine), s.noUnknownOpcode →
    (loadTape s lines).2.noUnknownOpcode)

/-! ### 70_reset_and_hazards.md -/

/-- The state after construction (R38), for every configuration c: construction, step by step, ends in
`State.reset` with c (R251); registers 0, `pc` 31, Idle, flags false, words and tags 0..30 from c's
`BOOT_ROM` and table, and every other word 0 with the default tag.  The spec's own image is lawful and is
that of the default configuration.  The model's are: the field `config`, which construction sets (log 4);
`draws`, 0 at State.reset (log 5); and what a word and a tag read as past word 1023, where R38 ends (log
21). -/
def Obligations.ConstructionLeavesTheResetState : Prop :=
  bootRomLawful bootRom = true ∧ Config.standard.bootRom = bootRom ∧
  ∀ c : Config, construct c = { State.reset with config := c } ∧
    (construct c).acc = 0#71 ∧ (construct c).mr = 0#35 ∧ (construct c).md = 0#35 ∧
    (construct c).ot = 0#17 ∧ (construct c).scr = 0#10 ∧ (construct c).pc = 31 ∧
    (construct c).status = .idle ∧ (construct c).programLoaded = false ∧
    (construct c).stepMode = false ∧ (construct c).debugMode = false ∧
    (∀ w, w < 31 →
      (construct c).word w = patternWord (romPattern c w) ∧
      (construct c).tag w =
        { letter := firstSymbol c.codeTable ((construct c).opc w), hasAddress := true,
          address := (construct c).addr w,
          length := if ((construct c).word w).getMsbD 16 then .long else .short }) ∧
    (∀ w, 31 ≤ w → (construct c).word w = 0#17 ∧
      (construct c).tag w =
        { letter := none, hasAddress := false, address := 0#10, length := .short })

/-- The BootstrapLoader (R252, R254), on any state, of any image: bit k of word w is whether character k
of pattern w, spaces removed, is `1`, and the tag of word w is its bits' tag with `hasAddress`; words from
31 on and everything but memory and tags keep their values; running it again changes no word (R255).  Past
word 1023 the values kept are those of the model's accessors (log 21). -/
def Obligations.BootstrapWritesItsPatterns : Prop :=
  ∀ s : State,
    (∀ w k p, s.config.bootRom[w]? = some p → w < 31 → k < 17 →
      (bootstrapLoad s).bit (17 * w + k) =
        ((p.toList.filter (· != ' '))[k]? == some '1')) ∧
    (∀ w, w < 31 → (bootstrapLoad s).tag w =
      { letter := firstSymbol s.config.codeTable ((bootstrapLoad s).opc w), hasAddress := true,
        address := (bootstrapLoad s).addr w,
        length := if ((bootstrapLoad s).word w).getMsbD 16 then .long else .short }) ∧
    (∀ w, 31 ≤ w → (bootstrapLoad s).word w = s.word w ∧ (bootstrapLoad s).tag w = s.tag w) ∧
    (∀ w, (bootstrapLoad (bootstrapLoad s)).word w = (bootstrapLoad s).word w) ∧
    bootstrapLoad s = { s with mem := (bootstrapLoad s).mem, tags := (bootstrapLoad s).tags }

/-- `reset()` (R250), in every status: the state of construction, so Idle and nothing runs before the
next load; the output already emitted stays with the host.  The fields `output` (log 7), `draws` (log 5)
and `config` (log 4), which is the core's own and no state of the spec (R20), are the model's. -/
def Obligations.ResetRebuildsTheState : Prop :=
  ∀ s : State,
    hostReset s =
      { construct s.config with output := s.output, draws := (hostReset s).draws } ∧
    (hostReset s).admitted = false

/-- `loadTape` is refused exactly outside Idle, and then with no state change (R260, decision D25). -/
def Obligations.LoadTapeOutsideIdleIsRefused : Prop :=
  ∀ (s : State) (lines : List TapeLine),
    ((loadTape s lines).1 = .refused ↔ s.status ≠ .idle) ∧
    (s.status ≠ .idle → (loadTape s lines).2 = s)

/-- When a load succeeds, and what it leaves (R130, R262, R263): in status Idle it succeeds exactly for a
tape whose lines, the comments apart, all parse and are at most 993.  Then `programLoaded` is set; the k-th
line that is no comment is parsed, and its word and tag stand at word 31 + k; and no other word or tag
changes, which past word 1023 is about the model's accessors (log 21). -/
def Obligations.LoadedTapeStandsInMemory : Prop :=
  (∀ (s : State) (lines : List TapeLine), s.status = .idle →
    ((loadTape s lines).1 = .loaded ↔
      (∀ line ∈ lines, isComment line = false →
        ∃ r, parseInstructionLine s.config.codeTable line = .ok r) ∧
      (lines.filter fun x => !isComment x).length ≤ 993)) ∧
  ∀ (s t : State) (lines : List TapeLine), loadTape s lines = (.loaded, t) →
    t.programLoaded = true ∧
    31 + (lines.filter fun x => !isComment x).length ≤ 1024 ∧
    (∀ k line, (lines.filter fun x => !isComment x)[k]? = some line →
      ∃ r, parseInstructionLine s.config.codeTable line = .ok r ∧
        encodeWord s.config.codeTable r = some (t.word (31 + k)) ∧
        t.tag (31 + k) =
          { letter := some r.symbol, hasAddress := r.hasAddress, address := r.address,
            length := r.length }) ∧
    (∀ w, w < 31 ∨ 31 + (lines.filter fun x => !isComment x).length ≤ w →
      t.word w = s.word w ∧ t.tag w = s.tag w)

/-- A load that fails at line i (R264, decision D9): line i is there and is no comment;
`programLoaded` keeps its value; under `partial` the lines before it, k of them no comments, stand in
words 31..31+k-1 and every later word is untouched, which past word 1023 is about the model's accessors
(log 21); under `atomic` nothing has changed. -/
def Obligations.FailedLoadStopsAtItsLine : Prop :=
  ∀ (s t : State) (lines : List TapeLine) (i : Nat) (f : Fault),
    loadTape s lines = (.failed i f, t) →
    1 ≤ i ∧ (∃ line, lines[i - 1]? = some line ∧ isComment line = false) ∧
    ((∃ c, f = .unknownInstruction i c) ∨ (∃ p, f = .malformedInstructionLine i p) ∨
      f = .outOfBounds .load 1024) ∧
    t.programLoaded = s.programLoaded ∧
    (s.config.loadAtomic = .atomic → t = s) ∧
    (s.config.loadAtomic = .partialLoad →
      ∀ before : List TapeLine,
        before = (lines.take (i - 1)).filter (fun x => !isComment x) →
        (∀ k line, before[k]? = some line →
          ∃ r, parseInstructionLine s.config.codeTable line = .ok r ∧
            encodeWord s.config.codeTable r = some (t.word (31 + k)) ∧
            t.tag (31 + k) =
              { letter := some r.symbol, hasAddress := r.hasAddress, address := r.address,
                length := r.length }) ∧
        (∀ w, w < 31 ∨ 31 + before.length ≤ w → t.word w = s.word w ∧ t.tag w = s.tag w))

/-- The line a load fails at, and its fault (R264, R231): the word bound is checked first, and is the
fault of a 994th word; else the fault is the parse error of that very line, with its number. -/
def Obligations.LoadFaultsNameTheirLine : Prop :=
  ∀ (s t : State) (lines : List TapeLine) (i : Nat) (f : Fault),
    loadTape s lines = (.failed i f, t) →
    ∃ line, lines[i - 1]? = some line ∧
      (if 993 ≤ ((lines.take (i - 1)).filter fun x => !isComment x).length then
        f = .outOfBounds .load 1024
      else
        (∃ c, parseInstructionLine s.config.codeTable line = .error (.unknownSymbol c) ∧
          f = .unknownInstruction i c) ∨
        (∃ p, parseInstructionLine s.config.codeTable line = .error (.malformed p) ∧
          f = .malformedInstructionLine i p))

/-- What the loader leaves alone (R265, an inference of the spec): a load writes memory, tags and
`programLoaded`, and no register, no `pc`, no status, no flag. -/
def Obligations.LoadTapeWritesNoRegister : Prop :=
  ∀ (s : State) (lines : List TapeLine),
    (loadTape s lines).2 =
      { s with
        mem := (loadTape s lines).2.mem
        tags := (loadTape s lines).2.tags
        programLoaded := (loadTape s lines).2.programLoaded }

/-- Comment lines are skipped entirely (R261): a load leaves the same state as the load of its other
lines alone, and succeeds exactly when that does. -/
def Obligations.CommentLinesAreSkipped : Prop :=
  ∀ (s : State) (lines : List TapeLine),
    (loadTape s lines).2 = (loadTape s (lines.filter fun x => !isComment x)).2 ∧
    ((loadTape s lines).1 = .loaded ↔
      (loadTape s (lines.filter fun x => !isComment x)).1 = .loaded)

/-- A word placed by `withFetchWord` is what the very next step runs, in every state, decoded under the
core's own code table (log 13). -/
def Obligations.StepRunsThePlacedWord : Prop :=
  ∀ (s : State) (w : Word), ∃ u : State,
    step (s.withFetchWord 24 w.toNat) = exec (decodeWith s.config.codeTable w) u ∧ u.ot = w ∧ u.acc = s.acc ∧
    (u.tag u.pc).hasAddress = true ∧ (s.pc < 1024 → u.pc = s.pc) ∧
    (∀ b, b ≠ u.pc → u.word b = s.word b)
end

