-- ==== Sys2Proof/Laws/Bootstrap.lean ====
section
/-!
SUPPORT. What the bootstrap image reads as, bit by bit and past its end.
-/

namespace Sys2Proof.Machine

/-- Bit k of a pattern's word is character k of the pattern without its spaces
(70_reset_and_hazards.md R252). -/
theorem patternBits_getMsbD (cs : List Char) (n k : Nat) (h : k < n) :
    (patternBits cs n).getMsbD k = (cs[k]? == some '1') := by
  induction n with
  | zero => omega
  | succ n ih =>
    simp only [patternBits, BitVec.getMsbD_concat]
    by_cases hk : k < n
    · simp [hk, ih hk]
    · have e : k = n := by omega
      simp [e]

/-- Inside the image an unlisted word reads as its pattern (10_state.md R38). -/
theorem resetWord_low (c : Config) {w : Nat} (h : w < 31) :
    resetWord c w = patternWord (romPattern c w) := if_pos h

/-- Past the bootstrap image an unlisted word reads as 0 (10_state.md R38). -/
theorem resetWord_high (c : Config) {w : Nat} (h : 31 ≤ w) : resetWord c w = 0#17 :=
  if_neg (Nat.not_lt.2 h)

/-- Inside the image an unlisted tag is its word's (70_reset_and_hazards.md R254). -/
theorem resetTag_low (c : Config) {w : Nat} (h : w < 31) :
    resetTag c w = tagOfWord c.codeTable (resetWord c w) := if_pos h

/-- Past the bootstrap image an unlisted tag is the default (10_state.md R38). -/
theorem resetTag_high (c : Config) {w : Nat} (h : 31 ≤ w) : resetTag c w = Tag.blank :=
  if_neg (Nat.not_lt.2 h)

end Sys2Proof.Machine
end

