-- ==== Sys2Proof/Laws/Decode.lean ====
section
/-!
SUPPORT. The word layout: each field of a word laid out from fields, and a word is its own fields.
-/

namespace Sys2Proof

@[simp] theorem opcodeField_layoutWord (c : Code) (p : BitVec 1) (n : Addr) (l : BitVec 1) :
    opcodeField (layoutWord c p n l) = c := by
  apply BitVec.eq_of_getLsbD_eq
  intro i hi
  simp only [opcodeField, layoutWord, BitVec.getLsbD_extractLsb', BitVec.getLsbD_append, hi,
    decide_true, Bool.true_and]
  rw [if_neg (by omega), if_neg (by omega), if_neg (by omega)]
  congr 1; omega

@[simp] theorem spareField_layoutWord (c : Code) (p : BitVec 1) (n : Addr) (l : BitVec 1) :
    spareField (layoutWord c p n l) = p := by
  apply BitVec.eq_of_getLsbD_eq
  intro i hi
  simp only [spareField, layoutWord, BitVec.getLsbD_extractLsb', BitVec.getLsbD_append, hi,
    decide_true, Bool.true_and]
  rw [if_neg (by omega), if_neg (by omega), if_pos (by omega)]
  congr 1; omega

@[simp] theorem addressField_layoutWord (c : Code) (p : BitVec 1) (n : Addr) (l : BitVec 1) :
    addressField (layoutWord c p n l) = n := by
  apply BitVec.eq_of_getLsbD_eq
  intro i hi
  simp only [addressField, layoutWord, BitVec.getLsbD_extractLsb', BitVec.getLsbD_append, hi,
    decide_true, Bool.true_and]
  rw [if_neg (by omega), if_pos (by omega)]
  congr 1; omega

@[simp] theorem lengthField_layoutWord (c : Code) (p : BitVec 1) (n : Addr) (l : BitVec 1) :
    lengthField (layoutWord c p n l) = l := by
  apply BitVec.eq_of_getLsbD_eq
  intro i hi
  simp only [lengthField, layoutWord, BitVec.getLsbD_extractLsb', BitVec.getLsbD_append, hi,
    decide_true, Bool.true_and]
  rw [if_pos (by omega)]
  congr 1; omega

/-- A word is its four fields (30_encoding.md R71). -/
theorem layoutWord_fields (w : Word) :
    layoutWord (opcodeField w) (spareField w) (addressField w) (lengthField w) = w := by
  apply BitVec.eq_of_getLsbD_eq
  intro i hi
  simp only [opcodeField, spareField, addressField, lengthField, layoutWord,
    BitVec.getLsbD_extractLsb', BitVec.getLsbD_append]
  split
  · have : i = 0 := by omega
    subst this; simp
  · split
    · simp only [show i - 1 < 10 by omega, decide_true, Bool.true_and]
      congr 1; omega
    · split
      · simp only [show i - 1 - 10 < 1 by omega, decide_true, Bool.true_and]
        congr 1; omega
      · simp only [show i - 1 - 10 - 1 < 5 by omega, decide_true, Bool.true_and]
        congr 1; omega

@[simp] theorem opcodeField_setAddressField (w : Word) (a : Addr) :
    opcodeField (setAddressField w a) = opcodeField w := by simp [setAddressField]

@[simp] theorem spareField_setAddressField (w : Word) (a : Addr) :
    spareField (setAddressField w a) = spareField w := by simp [setAddressField]

@[simp] theorem addressField_setAddressField (w : Word) (a : Addr) :
    addressField (setAddressField w a) = a := by simp [setAddressField]

@[simp] theorem lengthField_setAddressField (w : Word) (a : Addr) :
    lengthField (setAddressField w a) = lengthField w := by simp [setAddressField]

@[simp] theorem Length.ofFlag_flag (l : Length) : Length.ofFlag l.flag = l := by cases l <;> decide

@[simp] theorem Length.flag_ofFlag (b : BitVec 1) : (Length.ofFlag b).flag = b := by
  revert b; decide

theorem Length.ofFlag_eq_long_iff (b : BitVec 1) : Length.ofFlag b = .long ↔ b = 1#1 := by
  revert b; decide

/-! ### Orders and symbols -/

@[simp] theorem Instr.symbol_ofSymbol (s : Symbol) (n : Addr) (l : Length) :
    (Instr.ofSymbol s n l).symbol = some s := by cases s <;> rfl

@[simp] theorem Instr.operand_ofSymbol (s : Symbol) (n : Addr) (l : Length) :
    (Instr.ofSymbol s n l).operand = n := by cases s <;> rfl

@[simp] theorem Instr.length_ofSymbol (s : Symbol) (n : Addr) (l : Length) :
    (Instr.ofSymbol s n l).length = l := by cases s <;> rfl

@[simp] theorem Instr.symbol_unknownCode (c : Code) (n : Addr) (l : Length) :
    (Instr.unknownCode c n l).symbol = none := rfl

@[simp] theorem Instr.operand_unknownCode (c : Code) (n : Addr) (l : Length) :
    (Instr.unknownCode c n l).operand = n := rfl

@[simp] theorem Instr.length_unknownCode (c : Code) (n : Addr) (l : Length) :
    (Instr.unknownCode c n l).length = l := rfl

/-- An order with a symbol is the order of that symbol. -/
theorem Instr.eq_ofSymbol {i : Instr} {s : Symbol} (h : i.symbol = some s) :
    i = Instr.ofSymbol s i.operand i.length := by
  cases i <;> simp only [Instr.symbol, Option.some.injEq, reduceCtorEq] at h <;> subst h <;> rfl

@[simp] theorem operand_decodeWith (t : CodeTable) (w : Word) :
    (decodeWith t w).operand = addressField w := by
  unfold decodeWith; split <;> simp

@[simp] theorem length_decodeWith (t : CodeTable) (w : Word) :
    (decodeWith t w).length = Length.ofFlag (lengthField w) := by
  unfold decodeWith; split <;> simp

theorem symbol_decodeWith (t : CodeTable) (w : Word) :
    (decodeWith t w).symbol = firstSymbol t (opcodeField w) := by
  unfold decodeWith; split <;> simp_all

end Sys2Proof
end

