-- ==== Sys2Proof/Laws/State.lean ====
section
/-!
SUPPORT. What each update of the state leaves in each field: one lemma per field per update.
-/

namespace Sys2Proof.Machine

variable (s : State)

@[simp] theorem setAcc_acc (a : AccWord) : (s.setAcc a).acc = a := rfl
@[simp] theorem setAcc_mr (a : AccWord) : (s.setAcc a).mr = s.mr := rfl
@[simp] theorem setAcc_md (a : AccWord) : (s.setAcc a).md = s.md := rfl
@[simp] theorem setAcc_ot (a : AccWord) : (s.setAcc a).ot = s.ot := rfl
@[simp] theorem setAcc_scr (a : AccWord) : (s.setAcc a).scr = s.scr := rfl
@[simp] theorem setAcc_pc (a : AccWord) : (s.setAcc a).pc = s.pc := rfl
@[simp] theorem setAcc_mem (a : AccWord) : (s.setAcc a).mem = s.mem := rfl
@[simp] theorem setAcc_tags (a : AccWord) : (s.setAcc a).tags = s.tags := rfl
@[simp] theorem setAcc_status (a : AccWord) : (s.setAcc a).status = s.status := rfl
@[simp] theorem setAcc_programLoaded (a : AccWord) : (s.setAcc a).programLoaded = s.programLoaded := rfl
@[simp] theorem setAcc_stepMode (a : AccWord) : (s.setAcc a).stepMode = s.stepMode := rfl
@[simp] theorem setAcc_debugMode (a : AccWord) : (s.setAcc a).debugMode = s.debugMode := rfl
@[simp] theorem setAcc_output (a : AccWord) : (s.setAcc a).output = s.output := rfl
@[simp] theorem setAcc_config (a : AccWord) : (s.setAcc a).config = s.config := rfl
@[simp] theorem setAcc_draws (a : AccWord) : (s.setAcc a).draws = s.draws := rfl

@[simp] theorem setScr_acc (a : Addr) : (s.setScr a).acc = s.acc := rfl
@[simp] theorem setScr_mr (a : Addr) : (s.setScr a).mr = s.mr := rfl
@[simp] theorem setScr_md (a : Addr) : (s.setScr a).md = s.md := rfl
@[simp] theorem setScr_ot (a : Addr) : (s.setScr a).ot = s.ot := rfl
@[simp] theorem setScr_scr (a : Addr) : (s.setScr a).scr = a := rfl
@[simp] theorem setScr_pc (a : Addr) : (s.setScr a).pc = s.pc := rfl
@[simp] theorem setScr_mem (a : Addr) : (s.setScr a).mem = s.mem := rfl
@[simp] theorem setScr_tags (a : Addr) : (s.setScr a).tags = s.tags := rfl
@[simp] theorem setScr_status (a : Addr) : (s.setScr a).status = s.status := rfl
@[simp] theorem setScr_programLoaded (a : Addr) : (s.setScr a).programLoaded = s.programLoaded := rfl
@[simp] theorem setScr_stepMode (a : Addr) : (s.setScr a).stepMode = s.stepMode := rfl
@[simp] theorem setScr_debugMode (a : Addr) : (s.setScr a).debugMode = s.debugMode := rfl
@[simp] theorem setScr_output (a : Addr) : (s.setScr a).output = s.output := rfl
@[simp] theorem setScr_config (a : Addr) : (s.setScr a).config = s.config := rfl
@[simp] theorem setScr_draws (a : Addr) : (s.setScr a).draws = s.draws := rfl

@[simp] theorem setPc_acc (v : Nat) : (s.setPc v).acc = s.acc := rfl
@[simp] theorem setPc_mr (v : Nat) : (s.setPc v).mr = s.mr := rfl
@[simp] theorem setPc_md (v : Nat) : (s.setPc v).md = s.md := rfl
@[simp] theorem setPc_ot (v : Nat) : (s.setPc v).ot = s.ot := rfl
@[simp] theorem setPc_scr (v : Nat) : (s.setPc v).scr = s.scr := rfl
@[simp] theorem setPc_pc (v : Nat) : (s.setPc v).pc = v := rfl
@[simp] theorem setPc_mem (v : Nat) : (s.setPc v).mem = s.mem := rfl
@[simp] theorem setPc_tags (v : Nat) : (s.setPc v).tags = s.tags := rfl
@[simp] theorem setPc_status (v : Nat) : (s.setPc v).status = s.status := rfl
@[simp] theorem setPc_programLoaded (v : Nat) : (s.setPc v).programLoaded = s.programLoaded := rfl
@[simp] theorem setPc_stepMode (v : Nat) : (s.setPc v).stepMode = s.stepMode := rfl
@[simp] theorem setPc_debugMode (v : Nat) : (s.setPc v).debugMode = s.debugMode := rfl
@[simp] theorem setPc_output (v : Nat) : (s.setPc v).output = s.output := rfl
@[simp] theorem setPc_config (v : Nat) : (s.setPc v).config = s.config := rfl
@[simp] theorem setPc_draws (v : Nat) : (s.setPc v).draws = s.draws := rfl

@[simp] theorem setStatus_acc (st : Status) : (s.setStatus st).acc = s.acc := rfl
@[simp] theorem setStatus_mr (st : Status) : (s.setStatus st).mr = s.mr := rfl
@[simp] theorem setStatus_md (st : Status) : (s.setStatus st).md = s.md := rfl
@[simp] theorem setStatus_ot (st : Status) : (s.setStatus st).ot = s.ot := rfl
@[simp] theorem setStatus_scr (st : Status) : (s.setStatus st).scr = s.scr := rfl
@[simp] theorem setStatus_pc (st : Status) : (s.setStatus st).pc = s.pc := rfl
@[simp] theorem setStatus_mem (st : Status) : (s.setStatus st).mem = s.mem := rfl
@[simp] theorem setStatus_tags (st : Status) : (s.setStatus st).tags = s.tags := rfl
@[simp] theorem setStatus_status (st : Status) : (s.setStatus st).status = st := rfl
@[simp] theorem setStatus_programLoaded (st : Status) : (s.setStatus st).programLoaded = s.programLoaded := rfl
@[simp] theorem setStatus_stepMode (st : Status) : (s.setStatus st).stepMode = s.stepMode := rfl
@[simp] theorem setStatus_debugMode (st : Status) : (s.setStatus st).debugMode = s.debugMode := rfl
@[simp] theorem setStatus_output (st : Status) : (s.setStatus st).output = s.output := rfl
@[simp] theorem setStatus_config (st : Status) : (s.setStatus st).config = s.config := rfl
@[simp] theorem setStatus_draws (st : Status) : (s.setStatus st).draws = s.draws := rfl

@[simp] theorem setWord_acc (w : Addr) (v : Word) : (s.setWord w v).acc = s.acc := rfl
@[simp] theorem setWord_mr (w : Addr) (v : Word) : (s.setWord w v).mr = s.mr := rfl
@[simp] theorem setWord_md (w : Addr) (v : Word) : (s.setWord w v).md = s.md := rfl
@[simp] theorem setWord_ot (w : Addr) (v : Word) : (s.setWord w v).ot = s.ot := rfl
@[simp] theorem setWord_scr (w : Addr) (v : Word) : (s.setWord w v).scr = s.scr := rfl
@[simp] theorem setWord_pc (w : Addr) (v : Word) : (s.setWord w v).pc = s.pc := rfl
@[simp] theorem setWord_mem (w : Addr) (v : Word) : (s.setWord w v).mem = storeWrite (resetWord s.config) s.mem w.toNat v := rfl
@[simp] theorem setWord_tags (w : Addr) (v : Word) : (s.setWord w v).tags = s.tags := rfl
@[simp] theorem setWord_status (w : Addr) (v : Word) : (s.setWord w v).status = s.status := rfl
@[simp] theorem setWord_programLoaded (w : Addr) (v : Word) : (s.setWord w v).programLoaded = s.programLoaded := rfl
@[simp] theorem setWord_stepMode (w : Addr) (v : Word) : (s.setWord w v).stepMode = s.stepMode := rfl
@[simp] theorem setWord_debugMode (w : Addr) (v : Word) : (s.setWord w v).debugMode = s.debugMode := rfl
@[simp] theorem setWord_output (w : Addr) (v : Word) : (s.setWord w v).output = s.output := rfl
@[simp] theorem setWord_config (w : Addr) (v : Word) : (s.setWord w v).config = s.config := rfl
@[simp] theorem setWord_draws (w : Addr) (v : Word) : (s.setWord w v).draws = s.draws := rfl

@[simp] theorem setTag_acc (w : Addr) (t : Tag) : (s.setTag w t).acc = s.acc := rfl
@[simp] theorem setTag_mr (w : Addr) (t : Tag) : (s.setTag w t).mr = s.mr := rfl
@[simp] theorem setTag_md (w : Addr) (t : Tag) : (s.setTag w t).md = s.md := rfl
@[simp] theorem setTag_ot (w : Addr) (t : Tag) : (s.setTag w t).ot = s.ot := rfl
@[simp] theorem setTag_scr (w : Addr) (t : Tag) : (s.setTag w t).scr = s.scr := rfl
@[simp] theorem setTag_pc (w : Addr) (t : Tag) : (s.setTag w t).pc = s.pc := rfl
@[simp] theorem setTag_mem (w : Addr) (t : Tag) : (s.setTag w t).mem = s.mem := rfl
@[simp] theorem setTag_tags (w : Addr) (t : Tag) : (s.setTag w t).tags = storeWrite (resetTag s.config) s.tags w.toNat t := rfl
@[simp] theorem setTag_status (w : Addr) (t : Tag) : (s.setTag w t).status = s.status := rfl
@[simp] theorem setTag_programLoaded (w : Addr) (t : Tag) : (s.setTag w t).programLoaded = s.programLoaded := rfl
@[simp] theorem setTag_stepMode (w : Addr) (t : Tag) : (s.setTag w t).stepMode = s.stepMode := rfl
@[simp] theorem setTag_debugMode (w : Addr) (t : Tag) : (s.setTag w t).debugMode = s.debugMode := rfl
@[simp] theorem setTag_output (w : Addr) (t : Tag) : (s.setTag w t).output = s.output := rfl
@[simp] theorem setTag_config (w : Addr) (t : Tag) : (s.setTag w t).config = s.config := rfl
@[simp] theorem setTag_draws (w : Addr) (t : Tag) : (s.setTag w t).draws = s.draws := rfl

@[simp] theorem setAddr_acc (n a : Addr) : (s.setAddr n a).acc = s.acc := rfl
@[simp] theorem setAddr_mr (n a : Addr) : (s.setAddr n a).mr = s.mr := rfl
@[simp] theorem setAddr_md (n a : Addr) : (s.setAddr n a).md = s.md := rfl
@[simp] theorem setAddr_ot (n a : Addr) : (s.setAddr n a).ot = s.ot := rfl
@[simp] theorem setAddr_scr (n a : Addr) : (s.setAddr n a).scr = s.scr := rfl
@[simp] theorem setAddr_pc (n a : Addr) : (s.setAddr n a).pc = s.pc := rfl
@[simp] theorem setAddr_mem (n a : Addr) : (s.setAddr n a).mem = storeWrite (resetWord s.config) s.mem n.toNat (setAddressField (s.word n.toNat) a) := rfl
@[simp] theorem setAddr_tags (n a : Addr) : (s.setAddr n a).tags = storeWrite (resetTag s.config) s.tags n.toNat { s.tag n.toNat with address := a } := rfl
@[simp] theorem setAddr_status (n a : Addr) : (s.setAddr n a).status = s.status := rfl
@[simp] theorem setAddr_programLoaded (n a : Addr) : (s.setAddr n a).programLoaded = s.programLoaded := rfl
@[simp] theorem setAddr_stepMode (n a : Addr) : (s.setAddr n a).stepMode = s.stepMode := rfl
@[simp] theorem setAddr_debugMode (n a : Addr) : (s.setAddr n a).debugMode = s.debugMode := rfl
@[simp] theorem setAddr_output (n a : Addr) : (s.setAddr n a).output = s.output := rfl
@[simp] theorem setAddr_config (n a : Addr) : (s.setAddr n a).config = s.config := rfl
@[simp] theorem setAddr_draws (n a : Addr) : (s.setAddr n a).draws = s.draws := rfl

@[simp] theorem emit_acc (c : Symbol) : (s.emit c).acc = s.acc := rfl
@[simp] theorem emit_mr (c : Symbol) : (s.emit c).mr = s.mr := rfl
@[simp] theorem emit_md (c : Symbol) : (s.emit c).md = s.md := rfl
@[simp] theorem emit_ot (c : Symbol) : (s.emit c).ot = s.ot := rfl
@[simp] theorem emit_scr (c : Symbol) : (s.emit c).scr = s.scr := rfl
@[simp] theorem emit_pc (c : Symbol) : (s.emit c).pc = s.pc := rfl
@[simp] theorem emit_mem (c : Symbol) : (s.emit c).mem = s.mem := rfl
@[simp] theorem emit_tags (c : Symbol) : (s.emit c).tags = s.tags := rfl
@[simp] theorem emit_status (c : Symbol) : (s.emit c).status = s.status := rfl
@[simp] theorem emit_programLoaded (c : Symbol) : (s.emit c).programLoaded = s.programLoaded := rfl
@[simp] theorem emit_stepMode (c : Symbol) : (s.emit c).stepMode = s.stepMode := rfl
@[simp] theorem emit_debugMode (c : Symbol) : (s.emit c).debugMode = s.debugMode := rfl
@[simp] theorem emit_output (c : Symbol) : (s.emit c).output = s.output ++ [c] := rfl
@[simp] theorem emit_config (c : Symbol) : (s.emit c).config = s.config := rfl
@[simp] theorem emit_draws (c : Symbol) : (s.emit c).draws = s.draws := rfl

@[simp] theorem drawScr_acc : (s.drawScr).acc = s.acc := rfl
@[simp] theorem drawScr_mr : (s.drawScr).mr = s.mr := rfl
@[simp] theorem drawScr_md : (s.drawScr).md = s.md := rfl
@[simp] theorem drawScr_ot : (s.drawScr).ot = s.ot := rfl
@[simp] theorem drawScr_scr : (s.drawScr).scr = Config.scrDraw s.draws := rfl
@[simp] theorem drawScr_pc : (s.drawScr).pc = s.pc := rfl
@[simp] theorem drawScr_mem : (s.drawScr).mem = s.mem := rfl
@[simp] theorem drawScr_tags : (s.drawScr).tags = s.tags := rfl
@[simp] theorem drawScr_status : (s.drawScr).status = s.status := rfl
@[simp] theorem drawScr_programLoaded : (s.drawScr).programLoaded = s.programLoaded := rfl
@[simp] theorem drawScr_stepMode : (s.drawScr).stepMode = s.stepMode := rfl
@[simp] theorem drawScr_debugMode : (s.drawScr).debugMode = s.debugMode := rfl
@[simp] theorem drawScr_output : (s.drawScr).output = s.output := rfl
@[simp] theorem drawScr_config : (s.drawScr).config = s.config := rfl
@[simp] theorem drawScr_draws : (s.drawScr).draws = s.draws + 1 := rfl

@[simp] theorem completed_acc : (completed s).acc = s.acc := rfl
@[simp] theorem completed_mr : (completed s).mr = s.mr := rfl
@[simp] theorem completed_md : (completed s).md = s.md := rfl
@[simp] theorem completed_ot : (completed s).ot = s.ot := rfl
@[simp] theorem completed_scr : (completed s).scr = s.scr := rfl
@[simp] theorem completed_pc : (completed s).pc = s.pc + 1 := rfl
@[simp] theorem completed_mem : (completed s).mem = s.mem := rfl
@[simp] theorem completed_tags : (completed s).tags = s.tags := rfl
@[simp] theorem completed_status : (completed s).status = s.status := rfl
@[simp] theorem completed_programLoaded : (completed s).programLoaded = s.programLoaded := rfl
@[simp] theorem completed_stepMode : (completed s).stepMode = s.stepMode := rfl
@[simp] theorem completed_debugMode : (completed s).debugMode = s.debugMode := rfl
@[simp] theorem completed_output : (completed s).output = s.output := rfl
@[simp] theorem completed_config : (completed s).config = s.config := rfl
@[simp] theorem completed_draws : (completed s).draws = s.draws := rfl

@[simp] theorem takeFault_acc (f : Fault) : (takeFault s f).acc = s.acc := rfl
@[simp] theorem takeFault_mr (f : Fault) : (takeFault s f).mr = s.mr := rfl
@[simp] theorem takeFault_md (f : Fault) : (takeFault s f).md = s.md := rfl
@[simp] theorem takeFault_ot (f : Fault) : (takeFault s f).ot = s.ot := rfl
@[simp] theorem takeFault_scr (f : Fault) : (takeFault s f).scr = s.scr := rfl
@[simp] theorem takeFault_pc (f : Fault) : (takeFault s f).pc = s.pc := rfl
@[simp] theorem takeFault_mem (f : Fault) : (takeFault s f).mem = s.mem := rfl
@[simp] theorem takeFault_tags (f : Fault) : (takeFault s f).tags = s.tags := rfl
@[simp] theorem takeFault_status (f : Fault) : (takeFault s f).status = .faulted f := rfl
@[simp] theorem takeFault_programLoaded (f : Fault) : (takeFault s f).programLoaded = s.programLoaded := rfl
@[simp] theorem takeFault_stepMode (f : Fault) : (takeFault s f).stepMode = s.stepMode := rfl
@[simp] theorem takeFault_debugMode (f : Fault) : (takeFault s f).debugMode = s.debugMode := rfl
@[simp] theorem takeFault_output (f : Fault) : (takeFault s f).output = s.output := rfl
@[simp] theorem takeFault_config (f : Fault) : (takeFault s f).config = s.config := rfl
@[simp] theorem takeFault_draws (f : Fault) : (takeFault s f).draws = s.draws := rfl

@[simp] theorem clearAcc_acc : (clearAcc s).acc = 0#71 := rfl
@[simp] theorem clearAcc_mr : (clearAcc s).mr = s.mr := rfl
@[simp] theorem clearAcc_md : (clearAcc s).md = s.md := rfl
@[simp] theorem clearAcc_ot : (clearAcc s).ot = s.ot := rfl
@[simp] theorem clearAcc_scr : (clearAcc s).scr = s.scr := rfl
@[simp] theorem clearAcc_pc : (clearAcc s).pc = s.pc := rfl
@[simp] theorem clearAcc_mem : (clearAcc s).mem = s.mem := rfl
@[simp] theorem clearAcc_tags : (clearAcc s).tags = s.tags := rfl
@[simp] theorem clearAcc_status : (clearAcc s).status = s.status := rfl
@[simp] theorem clearAcc_programLoaded : (clearAcc s).programLoaded = s.programLoaded := rfl
@[simp] theorem clearAcc_stepMode : (clearAcc s).stepMode = s.stepMode := rfl
@[simp] theorem clearAcc_debugMode : (clearAcc s).debugMode = s.debugMode := rfl
@[simp] theorem clearAcc_output : (clearAcc s).output = s.output := rfl
@[simp] theorem clearAcc_config : (clearAcc s).config = s.config := rfl
@[simp] theorem clearAcc_draws : (clearAcc s).draws = s.draws := rfl

@[simp] theorem fetch_acc : (fetch s).acc = s.acc := rfl
@[simp] theorem fetch_mr : (fetch s).mr = s.mr := rfl
@[simp] theorem fetch_md : (fetch s).md = s.md := rfl
@[simp] theorem fetch_ot : (fetch s).ot = s.word s.pc := rfl
@[simp] theorem fetch_scr : (fetch s).scr = BitVec.ofNat 10 s.pc := rfl
@[simp] theorem fetch_pc : (fetch s).pc = s.pc := rfl
@[simp] theorem fetch_mem : (fetch s).mem = s.mem := rfl
@[simp] theorem fetch_tags : (fetch s).tags = s.tags := rfl
@[simp] theorem fetch_status : (fetch s).status = s.status := rfl
@[simp] theorem fetch_programLoaded : (fetch s).programLoaded = s.programLoaded := rfl
@[simp] theorem fetch_stepMode : (fetch s).stepMode = s.stepMode := rfl
@[simp] theorem fetch_debugMode : (fetch s).debugMode = s.debugMode := rfl
@[simp] theorem fetch_output : (fetch s).output = s.output := rfl
@[simp] theorem fetch_config : (fetch s).config = s.config := rfl
@[simp] theorem fetch_draws : (fetch s).draws = s.draws := rfl

@[simp] theorem setStepMode_acc (b : Bool) : (setStepMode s b).acc = s.acc := rfl
@[simp] theorem setStepMode_mr (b : Bool) : (setStepMode s b).mr = s.mr := rfl
@[simp] theorem setStepMode_md (b : Bool) : (setStepMode s b).md = s.md := rfl
@[simp] theorem setStepMode_ot (b : Bool) : (setStepMode s b).ot = s.ot := rfl
@[simp] theorem setStepMode_scr (b : Bool) : (setStepMode s b).scr = s.scr := rfl
@[simp] theorem setStepMode_pc (b : Bool) : (setStepMode s b).pc = s.pc := rfl
@[simp] theorem setStepMode_mem (b : Bool) : (setStepMode s b).mem = s.mem := rfl
@[simp] theorem setStepMode_tags (b : Bool) : (setStepMode s b).tags = s.tags := rfl
@[simp] theorem setStepMode_status (b : Bool) : (setStepMode s b).status = s.status := rfl
@[simp] theorem setStepMode_programLoaded (b : Bool) : (setStepMode s b).programLoaded = s.programLoaded := rfl
@[simp] theorem setStepMode_stepMode (b : Bool) : (setStepMode s b).stepMode = b := rfl
@[simp] theorem setStepMode_debugMode (b : Bool) : (setStepMode s b).debugMode = s.debugMode := rfl
@[simp] theorem setStepMode_output (b : Bool) : (setStepMode s b).output = s.output := rfl
@[simp] theorem setStepMode_config (b : Bool) : (setStepMode s b).config = s.config := rfl
@[simp] theorem setStepMode_draws (b : Bool) : (setStepMode s b).draws = s.draws := rfl

@[simp] theorem setDebugMode_acc (b : Bool) : (setDebugMode s b).acc = s.acc := rfl
@[simp] theorem setDebugMode_mr (b : Bool) : (setDebugMode s b).mr = s.mr := rfl
@[simp] theorem setDebugMode_md (b : Bool) : (setDebugMode s b).md = s.md := rfl
@[simp] theorem setDebugMode_ot (b : Bool) : (setDebugMode s b).ot = s.ot := rfl
@[simp] theorem setDebugMode_scr (b : Bool) : (setDebugMode s b).scr = s.scr := rfl
@[simp] theorem setDebugMode_pc (b : Bool) : (setDebugMode s b).pc = s.pc := rfl
@[simp] theorem setDebugMode_mem (b : Bool) : (setDebugMode s b).mem = s.mem := rfl
@[simp] theorem setDebugMode_tags (b : Bool) : (setDebugMode s b).tags = s.tags := rfl
@[simp] theorem setDebugMode_status (b : Bool) : (setDebugMode s b).status = s.status := rfl
@[simp] theorem setDebugMode_programLoaded (b : Bool) : (setDebugMode s b).programLoaded = s.programLoaded := rfl
@[simp] theorem setDebugMode_stepMode (b : Bool) : (setDebugMode s b).stepMode = s.stepMode := rfl
@[simp] theorem setDebugMode_debugMode (b : Bool) : (setDebugMode s b).debugMode = b := rfl
@[simp] theorem setDebugMode_output (b : Bool) : (setDebugMode s b).output = s.output := rfl
@[simp] theorem setDebugMode_config (b : Bool) : (setDebugMode s b).config = s.config := rfl
@[simp] theorem setDebugMode_draws (b : Bool) : (setDebugMode s b).draws = s.draws := rfl

/-! ### Words and tags depend on `mem`, `tags` and `config` alone -/

theorem word_congr {s t : State} (h : t.mem = s.mem) (hc : t.config = s.config) (w : Nat) :
    t.word w = s.word w := by
  simp [State.word, h, hc]

theorem tag_congr {s t : State} (h : t.tags = s.tags) (hc : t.config = s.config) (w : Nat) :
    t.tag w = s.tag w := by
  simp [State.tag, h, hc]

@[simp] theorem setAcc_word (a : AccWord) (w' : Nat) : (s.setAcc a).word w' = s.word w' := rfl
@[simp] theorem setAcc_tag (a : AccWord) (w' : Nat) : (s.setAcc a).tag w' = s.tag w' := rfl
@[simp] theorem setAcc_addr (a : AccWord) (w' : Nat) : (s.setAcc a).addr w' = s.addr w' := rfl
@[simp] theorem setAcc_opc (a : AccWord) (w' : Nat) : (s.setAcc a).opc w' = s.opc w' := rfl
@[simp] theorem setScr_word (a : Addr) (w' : Nat) : (s.setScr a).word w' = s.word w' := rfl
@[simp] theorem setScr_tag (a : Addr) (w' : Nat) : (s.setScr a).tag w' = s.tag w' := rfl
@[simp] theorem setScr_addr (a : Addr) (w' : Nat) : (s.setScr a).addr w' = s.addr w' := rfl
@[simp] theorem setScr_opc (a : Addr) (w' : Nat) : (s.setScr a).opc w' = s.opc w' := rfl
@[simp] theorem setPc_word (v : Nat) (w' : Nat) : (s.setPc v).word w' = s.word w' := rfl
@[simp] theorem setPc_tag (v : Nat) (w' : Nat) : (s.setPc v).tag w' = s.tag w' := rfl
@[simp] theorem setPc_addr (v : Nat) (w' : Nat) : (s.setPc v).addr w' = s.addr w' := rfl
@[simp] theorem setPc_opc (v : Nat) (w' : Nat) : (s.setPc v).opc w' = s.opc w' := rfl
@[simp] theorem setStatus_word (st : Status) (w' : Nat) : (s.setStatus st).word w' = s.word w' := rfl
@[simp] theorem setStatus_tag (st : Status) (w' : Nat) : (s.setStatus st).tag w' = s.tag w' := rfl
@[simp] theorem setStatus_addr (st : Status) (w' : Nat) : (s.setStatus st).addr w' = s.addr w' := rfl
@[simp] theorem setStatus_opc (st : Status) (w' : Nat) : (s.setStatus st).opc w' = s.opc w' := rfl
@[simp] theorem setWord_tag (w : Addr) (v : Word) (w' : Nat) : (s.setWord w v).tag w' = s.tag w' := rfl
@[simp] theorem setTag_word (w : Addr) (t : Tag) (w' : Nat) : (s.setTag w t).word w' = s.word w' := rfl
@[simp] theorem setTag_addr (w : Addr) (t : Tag) (w' : Nat) : (s.setTag w t).addr w' = s.addr w' := rfl
@[simp] theorem setTag_opc (w : Addr) (t : Tag) (w' : Nat) : (s.setTag w t).opc w' = s.opc w' := rfl
@[simp] theorem emit_word (c : Symbol) (w' : Nat) : (s.emit c).word w' = s.word w' := rfl
@[simp] theorem emit_tag (c : Symbol) (w' : Nat) : (s.emit c).tag w' = s.tag w' := rfl
@[simp] theorem emit_addr (c : Symbol) (w' : Nat) : (s.emit c).addr w' = s.addr w' := rfl
@[simp] theorem emit_opc (c : Symbol) (w' : Nat) : (s.emit c).opc w' = s.opc w' := rfl
@[simp] theorem drawScr_word (w' : Nat) : (s.drawScr).word w' = s.word w' := rfl
@[simp] theorem drawScr_tag (w' : Nat) : (s.drawScr).tag w' = s.tag w' := rfl
@[simp] theorem drawScr_addr (w' : Nat) : (s.drawScr).addr w' = s.addr w' := rfl
@[simp] theorem drawScr_opc (w' : Nat) : (s.drawScr).opc w' = s.opc w' := rfl
@[simp] theorem completed_word (w' : Nat) : (completed s).word w' = s.word w' := rfl
@[simp] theorem completed_tag (w' : Nat) : (completed s).tag w' = s.tag w' := rfl
@[simp] theorem completed_addr (w' : Nat) : (completed s).addr w' = s.addr w' := rfl
@[simp] theorem completed_opc (w' : Nat) : (completed s).opc w' = s.opc w' := rfl
@[simp] theorem takeFault_word (f : Fault) (w' : Nat) : (takeFault s f).word w' = s.word w' := rfl
@[simp] theorem takeFault_tag (f : Fault) (w' : Nat) : (takeFault s f).tag w' = s.tag w' := rfl
@[simp] theorem takeFault_addr (f : Fault) (w' : Nat) : (takeFault s f).addr w' = s.addr w' := rfl
@[simp] theorem takeFault_opc (f : Fault) (w' : Nat) : (takeFault s f).opc w' = s.opc w' := rfl
@[simp] theorem clearAcc_word (w' : Nat) : (clearAcc s).word w' = s.word w' := rfl
@[simp] theorem clearAcc_tag (w' : Nat) : (clearAcc s).tag w' = s.tag w' := rfl
@[simp] theorem clearAcc_addr (w' : Nat) : (clearAcc s).addr w' = s.addr w' := rfl
@[simp] theorem clearAcc_opc (w' : Nat) : (clearAcc s).opc w' = s.opc w' := rfl
@[simp] theorem fetch_word (w' : Nat) : (fetch s).word w' = s.word w' := rfl
@[simp] theorem fetch_tag (w' : Nat) : (fetch s).tag w' = s.tag w' := rfl
@[simp] theorem fetch_addr (w' : Nat) : (fetch s).addr w' = s.addr w' := rfl
@[simp] theorem fetch_opc (w' : Nat) : (fetch s).opc w' = s.opc w' := rfl
@[simp] theorem setStepMode_word (b : Bool) (w' : Nat) : (setStepMode s b).word w' = s.word w' := rfl
@[simp] theorem setStepMode_tag (b : Bool) (w' : Nat) : (setStepMode s b).tag w' = s.tag w' := rfl
@[simp] theorem setStepMode_addr (b : Bool) (w' : Nat) : (setStepMode s b).addr w' = s.addr w' := rfl
@[simp] theorem setStepMode_opc (b : Bool) (w' : Nat) : (setStepMode s b).opc w' = s.opc w' := rfl
@[simp] theorem setDebugMode_word (b : Bool) (w' : Nat) : (setDebugMode s b).word w' = s.word w' := rfl
@[simp] theorem setDebugMode_tag (b : Bool) (w' : Nat) : (setDebugMode s b).tag w' = s.tag w' := rfl
@[simp] theorem setDebugMode_addr (b : Bool) (w' : Nat) : (setDebugMode s b).addr w' = s.addr w' := rfl
@[simp] theorem setDebugMode_opc (b : Bool) (w' : Nat) : (setDebugMode s b).opc w' = s.opc w' := rfl

end Sys2Proof.Machine
end

