-- ==== Sys2Proof/Laws/Store.lean ====
section
/-!
SUPPORT. The sparse store: a read after a write, and that a write keeps the canonical form.
-/

namespace Sys2Proof.Machine

variable {α : Type} (d : Nat → α)

theorem storeRead_insert (m : List (Nat × α)) (a : Nat) (v : α) (b : Nat)
    (h : ∀ e ∈ m, e.1 ≠ a) :
    storeRead d (storeInsert m a v) b = if b = a then v else storeRead d m b := by
  induction m with
  | nil => simp [storeInsert, storeRead]
  | cons e m ih =>
    obtain ⟨c, u⟩ := e
    have hc : c ≠ a := h (c, u) (by simp)
    have ih := ih fun e he => h e (by simp [he])
    unfold storeInsert
    split
    · simp [storeRead]
    · simp only [storeRead, ih]
      by_cases hb : b = c
      · simp [hb, hc]
      · simp [hb]

theorem storeRead_filter_ne (m : List (Nat × α)) (a b : Nat) :
    storeRead d (m.filter fun e => e.1 != a) b = if b = a then d b else storeRead d m b := by
  induction m with
  | nil => simp [storeRead]
  | cons e m ih =>
    obtain ⟨c, u⟩ := e
    by_cases hc : c = a
    · subst hc
      simp only [List.filter_cons, bne_self_eq_false, Bool.false_eq_true, if_false, ih, storeRead]
      by_cases hb : b = c <;> simp [hb]
    · simp only [List.filter_cons, bne_iff_ne, ne_eq, hc, not_false_eq_true, if_true, storeRead, ih]
      by_cases hb : b = c
      · simp [hb, hc]
      · simp [hb]

/-- A read after a write: the value written at its address, the old value elsewhere. -/
theorem storeRead_write [DecidableEq α] (m : List (Nat × α)) (a : Nat) (v : α) (b : Nat) :
    storeRead d (storeWrite d m a v) b = if b = a then v else storeRead d m b := by
  unfold storeWrite
  split
  · rename_i hv
    rw [storeRead_filter_ne]
    by_cases hb : b = a <;> simp [hb, hv]
  · rw [storeRead_insert d _ a v b (by simp), storeRead_filter_ne]
    by_cases hb : b = a <;> simp [hb]

/-! ### The canonical form -/

theorem storeRising_mono {lo lo' bound : Nat} (h : lo' ≤ lo) (m : List (Nat × α))
    (hm : storeRising lo bound m = true) : storeRising lo' bound m = true := by
  cases m with
  | nil => rfl
  | cons e m =>
    simp only [storeRising, Bool.and_eq_true, decide_eq_true_eq] at hm ⊢
    exact ⟨⟨h.trans hm.1.1, hm.1.2⟩, hm.2⟩

theorem storeRising_filter (p : Nat × α → Bool) {lo bound : Nat} (m : List (Nat × α))
    (hm : storeRising lo bound m = true) : storeRising lo bound (m.filter p) = true := by
  induction m generalizing lo with
  | nil => simpa using hm
  | cons e m ih =>
    obtain ⟨b, u⟩ := e
    simp only [storeRising, Bool.and_eq_true, decide_eq_true_eq] at hm
    rw [List.filter_cons]
    split
    · simp only [storeRising, Bool.and_eq_true, decide_eq_true_eq]
      exact ⟨hm.1, ih hm.2⟩
    · exact storeRising_mono (by omega) _ (ih hm.2)

theorem storeRising_insert {lo bound a : Nat} (v : α) (m : List (Nat × α))
    (hm : storeRising lo bound m = true) (hlo : lo ≤ a) (ha : a < bound)
    (hne : ∀ e ∈ m, e.1 ≠ a) : storeRising lo bound (storeInsert m a v) = true := by
  induction m generalizing lo with
  | nil => simp [storeInsert, storeRising, hlo, ha]
  | cons e m ih =>
    obtain ⟨b, u⟩ := e
    have hb : b ≠ a := hne (b, u) (by simp)
    simp only [storeRising, Bool.and_eq_true, decide_eq_true_eq] at hm
    unfold storeInsert
    split
    · simp only [storeRising, Bool.and_eq_true, decide_eq_true_eq]
      exact ⟨⟨hlo, ha⟩, ⟨by omega, hm.1.2⟩, hm.2⟩
    · simp only [storeRising, Bool.and_eq_true, decide_eq_true_eq]
      exact ⟨hm.1, ih hm.2 (by omega) fun e he => hne e (by simp [he])⟩

theorem mem_storeInsert {m : List (Nat × α)} {a : Nat} {v : α} {e : Nat × α}
    (h : e ∈ storeInsert m a v) : e = (a, v) ∨ e ∈ m := by
  induction m with
  | nil => simpa [storeInsert] using h
  | cons c m ih =>
    obtain ⟨b, u⟩ := c
    unfold storeInsert at h
    split at h
    · simpa using h
    · rcases List.mem_cons.1 h with h | h
      · exact .inr (by simp [h])
      · rcases ih h with h | h
        · exact .inl h
        · exact .inr (by simp [h])

/-- A write below the bound keeps the canonical form. -/
theorem storeWf_write [DecidableEq α] {bound : Nat} (m : List (Nat × α)) (a : Nat) (v : α)
    (ha : a < bound) (hm : storeWf d bound m = true) :
    storeWf d bound (storeWrite d m a v) = true := by
  simp only [storeWf, Bool.and_eq_true, List.all_eq_true, decide_eq_true_eq] at hm ⊢
  obtain ⟨hr, hd⟩ := hm
  unfold storeWrite
  split
  · exact ⟨storeRising_filter _ _ hr, fun e he => hd e (List.mem_filter.1 he).1⟩
  · rename_i hv
    refine ⟨storeRising_insert v _ (storeRising_filter _ _ hr) (Nat.zero_le _) ha (by simp), ?_⟩
    intro e he
    rcases mem_storeInsert he with rfl | he
    · exact hv
    · exact hd e (List.mem_filter.1 he).1

/-- Nothing listed is canonical. -/
@[simp] theorem storeWf_nil [DecidableEq α] (bound : Nat) : storeWf d bound [] = true := rfl

/-- Two canonical stores that read alike are equal data. -/
theorem storeRising_ext [DecidableEq α] {lo bound : Nat} {m m' : List (Nat × α)}
    (hm : storeRising lo bound m = true) (hm' : storeRising lo bound m' = true)
    (hd : ∀ e ∈ m, e.2 ≠ d e.1) (hd' : ∀ e ∈ m', e.2 ≠ d e.1)
    (h : ∀ a, storeRead d m a = storeRead d m' a) : m = m' := by
  have below : ∀ (lo : Nat) (m : List (Nat × α)), storeRising lo bound m = true →
      ∀ a, a < lo → storeRead d m a = d a := by
    intro lo m
    induction m generalizing lo with
    | nil => intros; rfl
    | cons e m ih =>
      obtain ⟨b, u⟩ := e
      intro hr a ha
      simp only [storeRising, Bool.and_eq_true, decide_eq_true_eq] at hr
      have hab : a ≠ b := by omega
      simp only [storeRead, hab, if_false]
      exact ih _ hr.2 a (by omega)
  induction m generalizing lo m' with
  | nil =>
    cases m' with
    | nil => rfl
    | cons e m' =>
      have := h e.1
      simp only [storeRead, if_true] at this
      exact absurd this.symm (hd' e (by simp))
  | cons e m ih =>
    obtain ⟨b, u⟩ := e
    cases m' with
    | nil =>
      have := h b
      simp only [storeRead, if_true] at this
      exact absurd this (hd (b, u) (by simp))
    | cons e' m' =>
      obtain ⟨b', u'⟩ := e'
      simp only [storeRising, Bool.and_eq_true, decide_eq_true_eq] at hm hm'
      have hu := hd (b, u) (by simp)
      have hu' := hd' (b', u') (by simp)
      have hb := h b
      have hb' := h b'
      simp only [storeRead, if_true] at hb hb'
      have hbb : b = b' := by
        rcases Nat.lt_trichotomy b b' with hlt | heq | hgt
        · rw [if_neg (by omega), below _ m' hm'.2 b (by omega)] at hb
          exact absurd hb hu
        · exact heq
        · rw [if_neg (by omega), below _ m hm.2 b' (by omega)] at hb'
          exact absurd hb'.symm hu'
      subst hbb
      simp only [if_true] at hb
      subst hb
      rw [ih hm.2 hm'.2 (fun e he => hd e (by simp [he])) (fun e he => hd' e (by simp [he]))]
      intro a
      by_cases hab : a = b
      · subst hab
        rw [below _ m hm.2 a (by omega), below _ m' hm'.2 a (by omega)]
      · have := h a
        simpa [storeRead, hab] using this

end Sys2Proof.Machine
end

