-- ==== Sys2Proof/Laws/Ops.lean ====
section
/-!
SUPPORT. What each shared operation does, said once: the word and tag accesses, the end of an iteration and
the handlers.
-/

namespace Sys2Proof.Machine

/-! ### Words and tags after a write -/

theorem word_setWord (s : State) (w : Addr) (v : Word) (b : Nat) :
    (s.setWord w v).word b = if b = w.toNat then v else s.word b :=
  storeRead_write _ _ _ _ _

theorem tag_setTag (s : State) (w : Addr) (t : Tag) (b : Nat) :
    (s.setTag w t).tag b = if b = w.toNat then t else s.tag b :=
  storeRead_write _ _ _ _ _

theorem word_setAddr (s : State) (n a : Addr) (b : Nat) :
    (s.setAddr n a).word b = if b = n.toNat then setAddressField (s.word b) a else s.word b := by
  rw [State.setAddr, setTag_word, word_setWord]
  split <;> simp_all

theorem tag_setAddr (s : State) (n a : Addr) (b : Nat) :
    (s.setAddr n a).tag b = if b = n.toNat then { s.tag b with address := a } else s.tag b := by
  rw [State.setAddr, tag_setTag]
  split <;> simp_all

/-! ### The canonical form is kept -/

theorem addr_lt_memWords (w : Addr) : w.toNat < Config.memWords := w.isLt

theorem memoryWf_setWord {s : State} (w : Addr) (v : Word)
    (h : Memory.wf s.config s.mem = true) : Memory.wf s.config (s.setWord w v).mem = true :=
  storeWf_write _ _ _ _ (addr_lt_memWords w) h

theorem tagsWf_setTag {s : State} (w : Addr) (t : Tag) (h : Tags.wf s.config s.tags = true) :
    Tags.wf s.config (s.setTag w t).tags = true :=
  storeWf_write _ _ _ _ (addr_lt_memWords w) h

theorem memoryWf_setAddr {s : State} (n a : Addr) (h : Memory.wf s.config s.mem = true) :
    Memory.wf s.config (s.setAddr n a).mem = true := memoryWf_setWord n _ h

theorem tagsWf_setAddr {s : State} (n a : Addr) (h : Tags.wf s.config s.tags = true) :
    Tags.wf s.config (s.setAddr n a).tags = true := tagsWf_setTag (s := s.setWord n _) n _ h

theorem memoryWf_reset : Memory.wf State.reset.config State.reset.mem = true := rfl

theorem tagsWf_reset : Tags.wf State.reset.config State.reset.tags = true := rfl

/-! ### The end of an iteration -/

theorem finish_eq_next {s t : State} {r : Except Fault State} (h : finish s r = .next t) :
    r = .ok t ∨ ∃ f, r = .error f ∧ t = takeFault s f := by
  cases r with
  | ok u => exact .inl (by simpa [finish] using h)
  | error f => exact .inr ⟨f, rfl, by simpa [finish] using h.symm⟩

/-- An iteration always ends in a next state. -/
theorem finish_next (s : State) (r : Except Fault State) : ∃ t, finish s r = .next t := by
  cases r with
  | ok u => exact ⟨u, rfl⟩
  | error f => exact ⟨takeFault s f, rfl⟩

/-! ### The conditions -/

theorem accOverflows_iff (a : AccWord) (v : Addr) :
    accOverflows a v = true ↔ 2 ^ 70 ≤ a.toNat + v.toNat := decide_eq_true_iff

theorem storeOverflows_iff (a : AccWord) : storeOverflows a = true ↔ 2 ^ 10 ≤ a.toNat :=
  decide_eq_true_iff

theorem inRom_iff (n : Addr) : inRom n = true ↔ n.toNat < 31 := decide_eq_true_iff

theorem fetchable_iff (s : State) : fetchable s = true ↔ s.pc < 1024 := decide_eq_true_iff

/-! ### The store of U and T -/

/-- `U_store(n)` answers a store, or one of its two faults. -/
theorem storeAcc_cases (s : State) (n : Addr) :
    (2 ^ 10 ≤ s.acc.toNat ∧ storeAcc s n = .error (.storeOverflow s.acc)) ∨
    (s.acc.toNat < 2 ^ 10 ∧ n.toNat < 31 ∧ s.config.romWrite = .fault ∧
      storeAcc s n = .error (.romWrite n)) ∨
    (s.acc.toNat < 2 ^ 10 ∧ ¬(n.toNat < 31 ∧ s.config.romWrite = .fault) ∧
      storeAcc s n = .ok (s.setAddr n (BitVec.ofNat 10 s.acc.toNat))) := by
  unfold storeAcc
  by_cases h : 2 ^ 10 ≤ s.acc.toNat
  · exact .inl ⟨h, if_pos ((storeOverflows_iff _).2 h)⟩
  · rw [if_neg (mt (storeOverflows_iff _).1 h)]
    have hiff : (inRom n && s.config.romWrite == .fault) = true ↔
        n.toNat < 31 ∧ s.config.romWrite = .fault := by
      rw [Bool.and_eq_true, inRom_iff, beq_iff_eq]
    by_cases hr : n.toNat < 31 ∧ s.config.romWrite = .fault
    · exact .inr (.inl ⟨Nat.lt_of_not_le h, hr.1, hr.2, if_pos (hiff.2 hr)⟩)
    · exact .inr (.inr ⟨Nat.lt_of_not_le h, hr, if_neg (mt hiff.1 hr)⟩)

/-! ### The handlers, inverted -/

/-- A either skips, faults on the sum, or adds. -/
theorem addOrder_cases (n : Addr) (s : State) :
    ((s.tag s.pc).hasAddress = false ∧ addOrder n s = .ok (completed s)) ∨
    ((s.tag s.pc).hasAddress = true ∧ 2 ^ 70 ≤ s.acc.toNat + (s.addr n.toNat).toNat ∧
      addOrder n s = .error (.accumulatorOverflow s.acc (s.addr n.toNat))) ∨
    ((s.tag s.pc).hasAddress = true ∧ s.acc.toNat + (s.addr n.toNat).toNat < 2 ^ 70 ∧
      addOrder n s = .ok (completed
        (s.setAcc (BitVec.ofNat 71 (s.acc.toNat + (s.addr n.toNat).toNat))))) := by
  unfold addOrder State.hasOperand
  cases (s.tag s.pc).hasAddress with
  | false => exact .inl ⟨rfl, rfl⟩
  | true =>
    by_cases h : 2 ^ 70 ≤ s.acc.toNat + (s.addr n.toNat).toNat
    · exact .inr (.inl ⟨rfl, h, if_pos ((accOverflows_iff _ _).2 h)⟩)
    · exact .inr (.inr ⟨rfl, Nat.lt_of_not_le h, if_neg (mt (accOverflows_iff _ _).1 h)⟩)

/-- T is a no-op at word 31, clears, or stores and clears. -/
theorem transferOrder_cases (n : Addr) (s : State) :
    (s.pc = 31 ∧ transferOrder n s = .ok (completed s)) ∨
    (s.pc ≠ 31 ∧ s.config.tMode = .legacy ∧
      transferOrder n s = .ok (completed (clearAcc s))) ∨
    (s.pc ≠ 31 ∧ s.config.tMode = .storeThenClear ∧
      transferOrder n s = (storeAcc s n).map fun t => completed (clearAcc t)) := by
  unfold transferOrder
  by_cases h : s.pc = 31
  · exact .inl ⟨h, by simp [h]⟩
  · cases hm : s.config.tMode with
    | legacy => exact .inr (.inl ⟨h, rfl, by simp [h]⟩)
    | storeThenClear => exact .inr (.inr ⟨h, rfl, by simp [h]⟩)

/-- G completes, branches to a word above 0, or branches to word 0. -/
theorem branchOrder_cases (n : Addr) (s : State) :
    (branchTaken s.config.gPolarity s.acc = false ∧ branchOrder n s = completed s) ∨
    (branchTaken s.config.gPolarity s.acc = true ∧ n ≠ 0#10 ∧
      branchOrder n s = (s.setScr (BitVec.ofNat 10 (n.toNat - 1))).setPc n.toNat) ∨
    (branchTaken s.config.gPolarity s.acc = true ∧ n = 0#10 ∧
      branchOrder n s = s.drawScr.setPc 0) := by
  unfold branchOrder branchTo
  cases h : branchTaken s.config.gPolarity s.acc with
  | false => exact .inl ⟨rfl, by simp⟩
  | true =>
    by_cases hn : n = 0#10
    · exact .inr (.inr ⟨rfl, hn, by simp [hn]⟩)
    · exact .inr (.inl ⟨rfl, hn, by simp [hn]⟩)

/-- O faults on the field, or emits its symbol. -/
theorem outputOrder_cases (n : Addr) (s : State) :
    (∃ f, outputSymbol s.config.codeTable (s.addr n.toNat) = .error f ∧ outputOrder n s = .error f) ∨
    (∃ c, outputSymbol s.config.codeTable (s.addr n.toNat) = .ok c ∧
      outputOrder n s = .ok (completed ((s.emit c).setStatus (statusAfterEmit s c)))) := by
  unfold outputOrder State.operandValue
  cases h : outputSymbol s.config.codeTable (s.addr n.toNat) with
  | error f => exact .inl ⟨f, rfl, rfl⟩
  | ok c => exact .inr ⟨c, rfl, rfl⟩

end Sys2Proof.Machine
end

