-- ==== Sys2Proof/Laws/PerInstr.lean ====
section
/-!
SUPPORT. Per-instruction laws: the family `EncodingFields`, one lemma per order.
-/

namespace Sys2Proof.Laws.EncodingFields

/-- The fields of an order's encoded word (30_encoding.md R71, R84): its own operand and length, the
spare bit 1, and the code the table gives the order. -/
def Statement (i : Instr) : Prop :=
  ∀ w, encode i = some w →
    some (opcodeField w) = i.code codeTable ∧ spareField w = 1#1 ∧ addressField w = i.operand ∧
    lengthField w = i.length.flag

/-- The statement holds of every order, whichever its code. -/
theorem of_encode (i : Instr) : Statement i := by
  intro w h
  simp only [encode, encodeWith, Option.map_eq_some_iff] at h
  obtain ⟨c, hc, rfl⟩ := h
  simp [hc]

theorem orderP (n : Addr) (l : Length) : Statement (.orderP n l) := of_encode _

theorem orderQ (n : Addr) (l : Length) : Statement (.orderQ n l) := of_encode _

theorem orderW (n : Addr) (l : Length) : Statement (.orderW n l) := of_encode _

theorem orderBang (n : Addr) (l : Length) : Statement (.orderBang n l) := of_encode _

theorem orderE (n : Addr) (l : Length) : Statement (.orderE n l) := of_encode _

theorem orderR (n : Addr) (l : Length) : Statement (.orderR n l) := of_encode _

theorem orderT (n : Addr) (l : Length) : Statement (.orderT n l) := of_encode _

theorem orderY (n : Addr) (l : Length) : Statement (.orderY n l) := of_encode _

theorem orderU (n : Addr) (l : Length) : Statement (.orderU n l) := of_encode _

theorem orderI (n : Addr) (l : Length) : Statement (.orderI n l) := of_encode _

theorem orderO (n : Addr) (l : Length) : Statement (.orderO n l) := of_encode _

theorem orderJ (n : Addr) (l : Length) : Statement (.orderJ n l) := of_encode _

theorem orderHash (n : Addr) (l : Length) : Statement (.orderHash n l) := of_encode _

theorem orderS (n : Addr) (l : Length) : Statement (.orderS n l) := of_encode _

theorem orderZ (n : Addr) (l : Length) : Statement (.orderZ n l) := of_encode _

theorem orderK (n : Addr) (l : Length) : Statement (.orderK n l) := of_encode _

theorem orderStar (n : Addr) (l : Length) : Statement (.orderStar n l) := of_encode _

theorem orderDot (n : Addr) (l : Length) : Statement (.orderDot n l) := of_encode _

theorem orderF (n : Addr) (l : Length) : Statement (.orderF n l) := of_encode _

theorem orderAt (n : Addr) (l : Length) : Statement (.orderAt n l) := of_encode _

theorem orderD (n : Addr) (l : Length) : Statement (.orderD n l) := of_encode _

theorem orderH (n : Addr) (l : Length) : Statement (.orderH n l) := of_encode _

theorem orderN (n : Addr) (l : Length) : Statement (.orderN n l) := of_encode _

theorem orderM (n : Addr) (l : Length) : Statement (.orderM n l) := of_encode _

theorem orderAmp (n : Addr) (l : Length) : Statement (.orderAmp n l) := of_encode _

theorem orderL (n : Addr) (l : Length) : Statement (.orderL n l) := of_encode _

theorem orderX (n : Addr) (l : Length) : Statement (.orderX n l) := of_encode _

theorem orderG (n : Addr) (l : Length) : Statement (.orderG n l) := of_encode _

theorem orderA (n : Addr) (l : Length) : Statement (.orderA n l) := of_encode _

theorem orderB (n : Addr) (l : Length) : Statement (.orderB n l) := of_encode _

theorem orderC (n : Addr) (l : Length) : Statement (.orderC n l) := of_encode _

theorem orderV (n : Addr) (l : Length) : Statement (.orderV n l) := of_encode _

theorem unknownCode (c : Code) (n : Addr) (l : Length) : Statement (.unknownCode c n l) :=
  of_encode _

end Sys2Proof.Laws.EncodingFields
end

