-- ==== Sys2Proof/Laws/Step.lean ====
section
/-!
SUPPORT. Everything an order and a step can do, said once; invariants are derived from these.
-/

namespace Sys2Proof.Machine

/-- `i` is one of the seven orders with a handler (40_engine.md R116). -/
def isHandled (i : Instr) : Bool :=
  match i.symbol with
  | some c => [Symbol.A, .S, .T, .U, .G, .O, .Z].contains c
  | none => false

/-- The order stores through operand `n`: U, or T away from word 31 when it stores. -/
def storesTo (i : Instr) (s : State) (n : Addr) : Prop :=
  (∃ l, i = .orderU n l) ∨
  ((∃ l, i = .orderT n l) ∧ s.pc ≠ 31 ∧ s.config.tMode = .storeThenClear)

/-- Every way `exec i s` can end, with the conditions it ends so under. -/
inductive ExecEffect (i : Instr) (s : State) : State → Prop where
  /-- No handler, or no symbol: the dispatch failure. -/
  | dispatch (f : Fault) : isHandled i = false → ExecEffect i s (takeFault s f)
  /-- A's sum is too large. -/
  | addFault (n : Addr) (l : Length) : i = .orderA n l → (s.tag s.pc).hasAddress = true →
      2 ^ 70 ≤ s.acc.toNat + (s.addr n.toNat).toNat →
      ExecEffect i s (takeFault s (.accumulatorOverflow s.acc (s.addr n.toNat)))
  /-- The Accumulator does not fit the field U or T stores to. -/
  | storeFault (n : Addr) : storesTo i s n → 2 ^ 10 ≤ s.acc.toNat →
      ExecEffect i s (takeFault s (.storeOverflow s.acc))
  /-- U or T stores into protected words. -/
  | romFault (n : Addr) : storesTo i s n → s.acc.toNat < 2 ^ 10 → n.toNat < 31 →
      s.config.romWrite = .fault → ExecEffect i s (takeFault s (.romWrite n))
  /-- O's field has no symbol. -/
  | outputFault (n : Addr) (l : Length) (f : Fault) : i = .orderO n l →
      outputSymbol s.config.codeTable (s.addr n.toNat) = .error f → ExecEffect i s (takeFault s f)
  /-- A without an address operand. -/
  | addSkip (n : Addr) (l : Length) : i = .orderA n l → (s.tag s.pc).hasAddress = false →
      ExecEffect i s (completed s)
  /-- S. -/
  | subtract (n : Addr) (l : Length) : i = .orderS n l → ExecEffect i s (completed s)
  /-- T at word 31. -/
  | transferSkip (n : Addr) (l : Length) : i = .orderT n l → s.pc = 31 →
      ExecEffect i s (completed s)
  /-- G not taken. -/
  | branchSkip (n : Addr) (l : Length) : i = .orderG n l →
      branchTaken s.config.gPolarity s.acc = false → ExecEffect i s (completed s)
  /-- A added. -/
  | add (n : Addr) (l : Length) : i = .orderA n l → (s.tag s.pc).hasAddress = true →
      s.acc.toNat + (s.addr n.toNat).toNat < 2 ^ 70 →
      ExecEffect i s (completed
        (s.setAcc (BitVec.ofNat 71 (s.acc.toNat + (s.addr n.toNat).toNat))))
  /-- T cleared. -/
  | clear (n : Addr) (l : Length) : i = .orderT n l → s.pc ≠ 31 → s.config.tMode = .legacy →
      ExecEffect i s (completed (clearAcc s))
  /-- T stored and cleared. -/
  | storeClear (n : Addr) (l : Length) : i = .orderT n l → s.pc ≠ 31 →
      s.config.tMode = .storeThenClear → s.acc.toNat < 2 ^ 10 →
      ¬(n.toNat < 31 ∧ s.config.romWrite = .fault) →
      ExecEffect i s (completed (clearAcc (s.setAddr n (BitVec.ofNat 10 s.acc.toNat))))
  /-- U stored. -/
  | store (n : Addr) (l : Length) : i = .orderU n l → s.acc.toNat < 2 ^ 10 →
      ¬(n.toNat < 31 ∧ s.config.romWrite = .fault) →
      ExecEffect i s (completed (s.setAddr n (BitVec.ofNat 10 s.acc.toNat)))
  /-- G branched to a word above 0. -/
  | branch (n : Addr) (l : Length) : i = .orderG n l →
      branchTaken s.config.gPolarity s.acc = true → n ≠ 0#10 →
      ExecEffect i s ((s.setScr (BitVec.ofNat 10 (n.toNat - 1))).setPc n.toNat)
  /-- G branched to word 0. -/
  | branchZero (l : Length) : i = .orderG 0#10 l →
      branchTaken s.config.gPolarity s.acc = true →
      ExecEffect i s (s.drawScr.setPc 0)
  /-- Z stopped. -/
  | stop (n : Addr) (l : Length) : i = .orderZ n l →
      ExecEffect i s (completed (s.setStatus .halted))
  /-- O emitted. -/
  | emit (n : Addr) (l : Length) (c : Symbol) : i = .orderO n l →
      outputSymbol s.config.codeTable (s.addr n.toNat) = .ok c →
      ExecEffect i s (completed ((s.emit c).setStatus (statusAfterEmit s c)))

/-- A dispatch failure is a fault. -/
theorem dispatchFailure_effect {i : Instr} {s t : State} {c : Symbol} (hi : isHandled i = false)
    (h : dispatchFailure s c = .next t) : ExecEffect i s t := by
  have h : Host.Outcome.next (takeFault s (.unimplementedInstruction c)) = .next t := h
  cases h; exact .dispatch _ hi

/-- Inversion of `exec`: a next state is one of the effects. -/
theorem exec_effect {i : Instr} {s t : State} (h : exec i s = .next t) : ExecEffect i s t := by
  cases i with
  | orderA n l =>
    replace h : finish s (addOrder n s) = .next t := h
    rcases addOrder_cases n s with ⟨ha, e⟩ | ⟨ha, hs, e⟩ | ⟨ha, hs, e⟩ <;> rw [e] at h <;> cases h
    · exact .addSkip n l rfl ha
    · exact .addFault n l rfl ha hs
    · exact .add n l rfl ha hs
  | orderT n l =>
    replace h : finish s (transferOrder n s) = .next t := h
    rcases transferOrder_cases n s with ⟨hp, e⟩ | ⟨hp, hm, e⟩ | ⟨hp, hm, e⟩ <;> rw [e] at h
    · cases h; exact .transferSkip n l rfl hp
    · cases h; exact .clear n l rfl hp hm
    · have hst : storesTo (.orderT n l) s n := .inr ⟨⟨l, rfl⟩, hp, hm⟩
      rcases storeAcc_cases s n with ⟨ha, e⟩ | ⟨ha, hn, hr, e⟩ | ⟨ha, hr, e⟩ <;> rw [e] at h <;>
        cases h
      · exact .storeFault n hst ha
      · exact .romFault n hst ha hn hr
      · exact .storeClear n l rfl hp hm ha hr
  | orderU n l =>
    replace h : finish s ((storeAcc s n).map completed) = .next t := h
    have hst : storesTo (.orderU n l) s n := .inl ⟨l, rfl⟩
    rcases storeAcc_cases s n with ⟨ha, e⟩ | ⟨ha, hn, hr, e⟩ | ⟨ha, hr, e⟩ <;> rw [e] at h <;>
      cases h
    · exact .storeFault n hst ha
    · exact .romFault n hst ha hn hr
    · exact .store n l rfl ha hr
  | orderG n l =>
    replace h : Host.Outcome.next (branchOrder n s) = .next t := h
    rcases branchOrder_cases n s with ⟨hb, e⟩ | ⟨hb, hn, e⟩ | ⟨hb, rfl, e⟩ <;> rw [e] at h <;> cases h
    · exact .branchSkip n l rfl hb
    · exact .branch n l rfl hb hn
    · exact .branchZero l rfl hb
  | orderS n l =>
    replace h : Host.Outcome.next (completed s) = .next t := h
    cases h; exact .subtract n l rfl
  | orderZ n l =>
    replace h : Host.Outcome.next (completed (s.setStatus .halted)) = .next t := h
    cases h; exact .stop n l rfl
  | orderO n l =>
    replace h : finish s (outputOrder n s) = .next t := h
    rcases outputOrder_cases n s with ⟨f, hf, e⟩ | ⟨c, hc, e⟩ <;> rw [e] at h <;> cases h
    · exact .outputFault n l f rfl hf
    · exact .emit n l c rfl hc
  | unknownCode c n l =>
    replace h : Host.Outcome.next (takeFault s (.unknownCode (.code c))) = .next t := h
    cases h; exact .dispatch _ rfl
  | _ => exact dispatchFailure_effect rfl h

/-- The operand a decoded order carries is the Order Tank's address field (40_engine.md R117). -/
theorem operand_fetch (s : State) : (decodeTank (fetch s)).operand = (fetch s).operand :=
  operand_decodeWith _ _

/-- `admission` lets a loaded Idle or Running machine run, and refuses every other. -/
theorem admission_cases (s : State) :
    (s.programLoaded = true ∧ (s.status = .idle ∨ s.status = .running) ∧
      admission s = .ok (s.setStatus .running)) ∨
    ((s.programLoaded = false ∨ (s.status ≠ .idle ∧ s.status ≠ .running)) ∧
      ∃ r, admission s = .error r) := by
  unfold admission
  cases s.programLoaded with
  | false => exact .inr ⟨.inl rfl, .noProgramLoaded, rfl⟩
  | true => cases s.status <;> simp

/-- Inversion of `step`: refused without change, a fetch out of range, or the decoded order run in
the state fetch left. -/
theorem step_cases {s t : State} (h : step s = .next t) :
    ((s.programLoaded = false ∨ (s.status ≠ .idle ∧ s.status ≠ .running)) ∧ t = s) ∨
    (s.programLoaded = true ∧ (s.status = .idle ∨ s.status = .running) ∧ 1024 ≤ s.pc ∧
      t = takeFault s (.outOfBounds .fetch s.pc)) ∨
    (s.programLoaded = true ∧ (s.status = .idle ∨ s.status = .running) ∧ s.pc < 1024 ∧
      ExecEffect (decodeWith s.config.codeTable (s.word s.pc)) (fetch (s.setStatus .running)) t) := by
  unfold step at h
  rcases admission_cases s with ⟨hl, hs, e⟩ | ⟨hs, r, e⟩ <;> rw [e] at h
  · refine .inr ?_
    replace h : iterate (s.setStatus .running) = .next t := h
    unfold iterate at h
    by_cases hp : s.pc < 1024
    · rw [if_pos (by exact (fetchable_iff _).2 hp)] at h
      exact .inr ⟨hl, hs, hp, exec_effect h⟩
    · rw [if_neg (by exact mt (fetchable_iff _).1 hp)] at h
      rcases finish_eq_next h with h | ⟨f, h, rfl⟩
      · cases h
      · cases h; exact .inl ⟨hl, hs, by omega, rfl⟩
  · cases h; exact .inl ⟨hs, rfl⟩

end Sys2Proof.Machine
end

