-- ==== Sys2Proof/Tests/Slice0.lean ====
section
/-!
SUPPORT. Tests and witnesses.  Expected results are those of 95_test_vectors.md, named in each comment, or
are worked out by hand from the rule named.
-/

namespace Sys2Proof.Tests

open Sys2Proof.Machine

/-! ### Helpers -/

/-- A running machine with the listed words loaded, each with the tag of a line that has an address. -/
def running (pc : Nat) (acc : AccWord) (words : List (Nat × Word)) : State :=
  { State.reset with
    status := .running
    programLoaded := true
    pc := pc
    acc := acc
    mem := words
    tags := words.map fun e => (e.1, tagOfWord codeTable e.2) }

/-- The state after one step. -/
def after (s : State) : State :=
  match step s with
  | .next t => t
  | .fault _ => s
  | .refused _ => s

/-- The state after one order. -/
def afterOrder (i : Instr) (s : State) : State :=
  match exec i s with
  | .next t => t
  | .fault _ => s
  | .refused _ => s

/-! ### Well-formed terms -/

/-- `!` is refused: no word decodes to it (R79). -/
theorem test_wellFormed_refuses_bang :
    (Instr.orderBang 5#10 .short).wellFormed = false ∧ (Instr.orderW 5#10 .short).wellFormed = true := by
  decide

/-- An unknown order whose code has a symbol is refused (R78). -/
theorem test_wellFormed_refuses_known_code :
    (Instr.unknownCode 0b11100#5 5#10 .short).wellFormed = false ∧
    (Instr.unknownCode 0b10100#5 5#10 .short).wellFormed = true := by decide

/-! ### Every constructor's decoding, from the code table of R75 and the layout of R71 -/

theorem test_decode_orderP : decode 0b00000100000001010#17 = .orderP 5#10 .short := by decide

theorem test_decode_orderQ : decode 0b00001010000000011#17 = .orderQ 513#10 .long := by decide

theorem test_decode_orderW : decode 0b00010100000001010#17 = .orderW 5#10 .short := by decide

theorem test_decode_orderE : decode 0b00011010000000011#17 = .orderE 513#10 .long := by decide

theorem test_decode_orderR : decode 0b00100100000001010#17 = .orderR 5#10 .short := by decide

theorem test_decode_orderT : decode 0b00101010000000011#17 = .orderT 513#10 .long := by decide

theorem test_decode_orderY : decode 0b00110100000001010#17 = .orderY 5#10 .short := by decide

theorem test_decode_orderU : decode 0b00111010000000011#17 = .orderU 513#10 .long := by decide

theorem test_decode_orderI : decode 0b01000100000001010#17 = .orderI 5#10 .short := by decide

theorem test_decode_orderO : decode 0b01001010000000011#17 = .orderO 513#10 .long := by decide

theorem test_decode_orderJ : decode 0b01010100000001010#17 = .orderJ 5#10 .short := by decide

theorem test_decode_orderHash : decode 0b01011010000000011#17 = .orderHash 513#10 .long := by decide

theorem test_decode_orderS : decode 0b01100100000001010#17 = .orderS 5#10 .short := by decide

theorem test_decode_orderZ : decode 0b01101010000000011#17 = .orderZ 513#10 .long := by decide

theorem test_decode_orderK : decode 0b01110100000001010#17 = .orderK 5#10 .short := by decide

theorem test_decode_orderStar : decode 0b01111010000000011#17 = .orderStar 513#10 .long := by decide

theorem test_decode_orderDot : decode 0b10000100000001010#17 = .orderDot 5#10 .short := by decide

theorem test_decode_orderF : decode 0b10001010000000011#17 = .orderF 513#10 .long := by decide

theorem test_decode_orderAt : decode 0b10010100000001010#17 = .orderAt 5#10 .short := by decide

theorem test_decode_orderD : decode 0b10011010000000011#17 = .orderD 513#10 .long := by decide

theorem test_decode_orderH : decode 0b10101100000001010#17 = .orderH 5#10 .short := by decide

theorem test_decode_orderN : decode 0b10110010000000011#17 = .orderN 513#10 .long := by decide

theorem test_decode_orderM : decode 0b10111100000001010#17 = .orderM 5#10 .short := by decide

theorem test_decode_orderAmp : decode 0b11000010000000011#17 = .orderAmp 513#10 .long := by decide

theorem test_decode_orderL : decode 0b11001100000001010#17 = .orderL 5#10 .short := by decide

theorem test_decode_orderX : decode 0b11010010000000011#17 = .orderX 513#10 .long := by decide

theorem test_decode_orderG : decode 0b11011100000001010#17 = .orderG 5#10 .short := by decide

theorem test_decode_orderA : decode 0b11100010000000011#17 = .orderA 513#10 .long := by decide

theorem test_decode_orderB : decode 0b11101100000001010#17 = .orderB 5#10 .short := by decide

theorem test_decode_orderC : decode 0b11110010000000011#17 = .orderC 513#10 .long := by decide

theorem test_decode_orderV : decode 0b11111100000001010#17 = .orderV 5#10 .short := by decide

/-- D-2: code `10100` has no symbol. -/
theorem test_decode_unknownCode :
    decode 0b10100100000001010#17 = .unknownCode 0b10100#5 5#10 .short := by decide

/-- R78: `!` encodes to W's code, and comes back as W. -/
theorem test_decode_orderBang :
    encode (.orderBang 5#10 .short) = some 0x0280A#17 ∧
    decode 0x0280A#17 = .orderW 5#10 .short := by decide

/-- D-4, D-5, D-6, as `decodeTableWord` numbers the bits; an 18th bit is no word's. -/
theorem test_decodeTableWord :
    decodeTableWord 24 0x1C83E = some (.orderA 31#10 .short) ∧
    decodeTableWord 24 0x1C83F = some (.orderA 31#10 .long) ∧
    decodeTableWord 17 0x1C03E = some (.orderA 31#10 .short) ∧
    decodeTableWord 24 0x20000 = none := by decide

/-! ### Encoding and tape lines -/

/-- R87: the words of the seven handled orders. -/
theorem test_encode_handled :
    encode (.orderA 31#10 .short) = some 0x1C83E#17 ∧
    encode (.orderS 40#10 .short) = some 0x0C850#17 ∧
    encode (.orderT 0#10 .long) = some 0x05801#17 ∧
    encode (.orderU 1023#10 .long) = some 0x07FFF#17 ∧
    encode (.orderG 7#10 .short) = some 0x1B80E#17 ∧
    encode (.orderO 41#10 .short) = some 0x09852#17 ∧
    encode (.orderZ 0#10 .short) = some 0x0D800#17 := by decide

/-- The record and the word of a line. -/
def lineOf (line : TapeLine) : Except LineError (LineRecord × Option Word) :=
  (parseInstructionLine codeTable line).map fun r => (r, encodeWord codeTable r)

/-- C-1, C-3, C-4, C-7, C-8. -/
theorem test_lines_of_A :
    lineOf ['A', '3', '1', 'F'] = .ok (⟨.A, true, 31#10, .short⟩, some 0x1C83E#17) ∧
    lineOf ['Z'] = .ok (⟨.Z, false, 0#10, .short⟩, some 0x0D800#17) ∧
    lineOf ['A', 'F'] = .ok (⟨.A, false, 0#10, .short⟩, some 0x1C800#17) ∧
    lineOf ['A', ' ', '3', '1', ' ', 'F'] = .ok (⟨.A, false, 0#10, .short⟩, some 0x1C800#17) ∧
    lineOf ['A', '3', '1', 'd'] = .ok (⟨.A, true, 31#10, .short⟩, some 0x1C83E#17) := by decide

/-- C-6, C-9, C-10, C-11, C-13. -/
theorem test_lines_of_others :
    lineOf ['A', '0', '3', '1', 'F'] = .ok (⟨.A, true, 31#10, .short⟩, some 0x1C83E#17) ∧
    lineOf ['T', 'D'] = .ok (⟨.T, false, 0#10, .long⟩, some 0x05801#17) ∧
    lineOf ['U', '1', '0', '2', '3', 'D'] = .ok (⟨.U, true, 1023#10, .long⟩, some 0x07FFF#17) ∧
    lineOf ['!', '5', 'F'] = .ok (⟨.bang, true, 5#10, .short⟩, some 0x0280A#17) ∧
    lineOf ['G', '7'] = .ok (⟨.G, true, 7#10, .short⟩, some 0x1B80E#17) := by decide

/-- C-14 to C-17. -/
theorem test_lines_that_fail :
    lineOf [' ', 'A', '1', 'F'] = .error (.unknownSymbol ' ') ∧
    lineOf ['a', '1', 'F'] = .error (.unknownSymbol 'a') ∧
    lineOf ['A', '1', '0', '2', '4', 'F'] = .error (.malformed .addressAbove1023) ∧
    lineOf [] = .error (.malformed .emptyLine) := by decide

/-! ### The engine -/

/-- E-1: nothing runs at reset. -/
theorem test_step_without_program :
    hostStep State.reset = (.noProgramLoaded, .next State.reset) := rfl

/-- E-2: H has no handler. -/
theorem test_orderH :
    let t := after (running 32 0#71 [(32, 0x1580A#17)])
    t.status = .faulted (.unimplementedInstruction .H) ∧ t.pc = 32 ∧ t.ot = 0x1580A#17 ∧
    t.scr = 32#10 := by decide

/-- E-3: code `10100`. -/
theorem test_unknownCode :
    let t := after (running 31 0#71 [(31, 0x14800#17)])
    t.status = .faulted (.unknownCode (.code 0b10100#5)) ∧ t.pc = 31 ∧ t.ot = 0x14800#17 ∧
    t.scr = 31#10 := by decide

/-- E-4: a fetch past the memory. -/
theorem test_fetch_out_of_range :
    let t := after (running 1024 0#71 [])
    t.status = .faulted (.outOfBounds .fetch 1024) ∧ t.ot = 0#17 ∧ t.scr = 0#10 ∧ t.pc = 1024 := by
  decide

/-- E-5: the order at word 1023 completes. -/
theorem test_last_word :
    let t := after (running 1023 0#71 [(1023, 0x0C800#17)])
    t.pc = 1024 ∧ t.status = .running := by decide

/-- E-7: a word that was never loaded is P. -/
theorem test_orderP :
    (after (running 40 0#71 [])).status = .faulted (.unimplementedInstruction .P) := by decide

/-- `withFetchWord` at reset: the next step runs the word, and it is the first order that runs. -/
theorem test_withFetchWord :
    let t := after (State.reset.withFetchWord 24 0x1C83E)
    t.acc = 31#71 ∧ t.pc = 32 ∧ t.ot = 0x1C83E#17 := by decide

/-- R38, R253: words 0, 10 and 30 at reset, with the tag of word 10 (R254), and word 31. -/
theorem test_reset_memory :
    State.reset.word 0 = 0x05000#17 ∧ State.reset.word 10 = 0x05001#17 ∧
    State.reset.word 30 = 0x1B00C#17 ∧ State.reset.word 31 = 0#17 ∧
    State.reset.tag 10 = ⟨some .T, true, 0#10, .long⟩ := by decide

/-- R130, R254: the host reads the tag of word 10, and none past the last word. -/
theorem test_readTag :
    readTag State.reset 10 = some ⟨some .T, true, 0#10, .long⟩ ∧
    readTag State.reset 1023 = some Tag.blank ∧ readTag State.reset 1024 = none := by decide

/-- R253: the W values of the spec's table, beside its patterns. -/
theorem test_bootRom_words :
    bootRom.map patternWord =
      [0x05000#17, 0x15004#17, 0x05000#17, 0x0300C#17, 0x00002#17, 0x0000A#17, 0x05000#17,
        0x08000#17] ++
      [0x1C000#17, 0x04020#17, 0x05001#17, 0x08004#17, 0x1C004#17, 0x0C00A#17, 0x0302A#17,
        0x05006#17] ++
      [0x1F002#17, 0x19010#17, 0x1C004#17, 0x05002#17, 0x03016#17, 0x04009#17, 0x1C008#17,
        0x19001#17] ++
      [0x1C00A#17, 0x0503E#17, 0x1C032#17, 0x1C008#17, 0x07032#17, 0x0C03E#17, 0x1B00C#17] := by
  decide

/-- Another core: `!` listed before W, A and S with each other's codes, and word 1 of the image changed. -/
def otherCore : Config :=
  { Config.standard with
    codeTable := (codeTable.map fun e =>
        if e.1 = .W then (.bang, e.2) else if e.1 = .bang then (.W, e.2)
        else if e.1 = .A then (.S, e.2) else if e.1 = .S then (.A, e.2) else e)
    bootRom := bootRom.set 1 "11100 1 0000000111 1" }

/-- R75, R253 as parameters: reset, dispatch and loading follow the core's own table and image. -/
theorem test_other_core :
    (hostReset { State.reset with config := otherCore }).word 1 = 0x1C80F#17 ∧
    ((hostReset { State.reset with config := otherCore }).tag 1).letter = some .S ∧
    (after { running 32 0#71 [(32, 0x0C850#17), (40, 0x0080A#17)] with config := otherCore }).acc =
      5#71 ∧
    (after { running 32 0#71 [(32, 0x02800#17)] with config := otherCore }).status =
      .faulted (.unimplementedInstruction .bang) ∧
    (loadTape { State.reset with config := otherCore } [['A', 'F']]).2.word 31 = 0x0C800#17 := by
  exact ⟨by decide, by decide, by decide, by decide, rfl⟩

/-! ### A and S -/

/-- A-2: the order's own field; and A-11: the length is ignored. -/
theorem test_orderA_adds :
    (after (running 31 31#71 [(31, 0x1C83E#17)])).acc = 62#71 ∧
    (after (running 32 0#71 [(32, 0x1C851#17), (40, 0x0080A#17)])).acc = 5#71 := by decide

/-- A-4: no address operand; A-6, A-7: the largest sum, and one more. -/
theorem test_orderA_limits :
    (after { running 36 7#71 [(36, 0x1C850#17), (40, 0x0080A#17)] with tags := [] }).acc = 7#71 ∧
    (after (running 32 (BitVec.ofNat 71 (2 ^ 70 - 1024)) [(32, 0x1C850#17), (40, 0x00FFE#17)])).acc =
      BitVec.ofNat 71 (2 ^ 70 - 1) ∧
    (after (running 32 (BitVec.ofNat 71 (2 ^ 70 - 1023)) [(32, 0x1C850#17), (40, 0x00FFE#17)])).status =
      .faulted (.accumulatorOverflow (BitVec.ofNat 71 (2 ^ 70 - 1023)) 1023#10) := by decide

/-- S-1. -/
theorem test_orderS :
    let t := after (running 35 7#71 [(35, 0x0C850#17)])
    t.acc = 7#71 ∧ t.pc = 36 ∧ t.status = .running := by decide

/-! ### T and U -/

/-- T-1, T-2. -/
theorem test_orderT_legacy :
    (after (running 31 63#71 [(31, 0x05800#17)])).acc = 63#71 ∧
    (after (running 33 63#71 [(33, 0x05800#17)])).acc = 0#71 := by decide

/-- A machine in the `store_then_clear` mode. -/
def storing (s : State) : State := { s with config := { s.config with tMode := .storeThenClear } }

/-- T-5, T-6. -/
theorem test_orderT_stores :
    (after (storing (running 33 5#71 [(33, 0x05852#17), (41, 0x00800#17)]))).addr 41 = 5#10 ∧
    (after (storing (running 33 5#71 [(33, 0x05852#17), (41, 0x00800#17)]))).acc = 0#71 ∧
    (after (storing (running 33 2000#71 [(33, 0x05852#17)]))).status =
      .faulted (.storeOverflow 2000#71) := by decide

/-- U-2: every bit but the address field stays; U-3. -/
theorem test_orderU_field :
    (after (running 33 1023#71 [(33, 0x07852#17), (41, 0x00801#17)])).word 41 = 0x00FFF#17 ∧
    (after (running 33 1024#71 [(33, 0x07852#17), (41, 0x00801#17)])).status =
      .faulted (.storeOverflow 1024#71) := by decide

/-- A machine whose words 0..30 are protected. -/
def protectedRom (s : State) : State := { s with config := { s.config with romWrite := .fault } }

/-- U-4: word 0, written and protected; U-5: a U that stores into its own word. -/
theorem test_orderU_words :
    (after (running 33 9#71 [(33, 0x07800#17)])).word 0 = 0x05012#17 ∧
    (after (protectedRom (running 33 9#71 [(33, 0x07800#17)]))).status = .faulted (.romWrite 0#10) ∧
    (after (running 35 40#71 [(35, 0x07846#17)])).word 35 = 0x07850#17 ∧
    (after (running 35 40#71 [(35, 0x07846#17)])).pc = 36 := by decide

/-! ### G and Z -/

/-- G-1, G-2, G-6. -/
theorem test_orderG_sign :
    (after (running 34 5#71 [(34, 0x1B848#17)])).pc = 36 ∧
    (after (running 34 5#71 [(34, 0x1B848#17)])).scr = 35#10 ∧
    (after (running 34 (BitVec.ofNat 71 (2 ^ 70)) [(34, 0x1B848#17)])).pc = 35 ∧
    (after (running 34 (BitVec.ofNat 71 (2 ^ 70)) [(34, 0x1B848#17)])).scr = 34#10 ∧
    (after { running 34 5#71 [(34, 0x1B848#17)] with
      config := { Config.standard with gPolarity := .branchIfNegative } }).pc = 35 := by decide

/-- G-4, G-7: the lowest and the highest target. -/
theorem test_orderG_targets :
    (after (running 40 0#71 [(40, 0x1B800#17)])).pc = 0 ∧
    (after (running 40 0#71 [(40, 0x1B800#17)])).draws = 1 ∧
    (after (running 50 0#71 [(50, 0x1BFFE#17)])).pc = 1023 ∧
    (after (running 50 0#71 [(50, 0x1BFFE#17)])).scr = 1022#10 := by decide

/-- Z-1. -/
theorem test_orderZ :
    let t := after (running 33 7#71 [(33, 0x0D800#17)])
    t.status = .halted ∧ t.pc = 34 ∧ t.acc = 7#71 := by decide

/-! ### O -/

/-- O-2, O-3, and O-6: the sentinel is emitted and requests a reset. -/
theorem test_orderO_emits :
    (after (running 32 0#71 [(32, 0x09852#17), (41, 0x0000A#17)])).output = [.T] ∧
    (after (running 32 0#71 [(32, 0x09852#17), (41, 0x00004#17)])).output = [.W] ∧
    (after { running 32 0#71 [(31, 0x1C83E#17), (32, 0x0983E#17)] with
      config := { Config.standard with haltSentinel := some .V } }).status = .resetRequested := by decide

/-- O-4, O-5: no symbol, and no code. -/
theorem test_orderO_faults :
    (after (running 32 0#71 [(32, 0x09852#17), (41, 0x00028#17)])).status =
      .faulted (.unknownCode (.code 0b10100#5)) ∧
    (after (running 32 0#71 [(32, 0x09852#17), (41, 0x00040#17)])).status =
      .faulted (.unknownCode (.field 32#10)) ∧
    (after (running 32 0#71 [(32, 0x09852#17), (41, 0x00040#17)])).output = [] := by decide

/-! ### The loader -/

/-- L-1: a comment is skipped, and the words stand from 31 on. -/
theorem test_load :
    let t := loadTape State.reset [['#', ' ', 'c'], ['A', '3', '1', 'F'], ['Z', 'F']]
    t.1 = .loaded ∧ t.2.word 31 = 0x1C83E#17 ∧ t.2.word 32 = 0x0D800#17 ∧
    t.2.programLoaded = true := by decide

/-- L-3: a load that fails at its second line. -/
theorem test_load_fails :
    let t := loadTape State.reset [['A', '3', '1', 'F'], ['a', '1', 'F'], ['Z', 'F']]
    t.1 = .failed 2 (.unknownInstruction 2 'a') ∧ t.2.word 31 = 0x1C83E#17 ∧ t.2.word 32 = 0#17 ∧
    t.2.programLoaded = false := by decide

/-! ### Witnesses: for every statement with hypotheses, a state and operands that meet them all -/

/-- A loaded machine at the order `w` of word 33, with word 41 = `P5F`. -/
def at33 (acc : AccWord) (w : Word) : State := running 33 acc [(33, w), (41, 0x0080A#17)]

/-- A step of a running machine answers its state after. -/
theorem step_after (pc : Nat) (acc : AccWord) (words : List (Nat × Word)) (t : State)
    (h : after (running pc acc words) = t) (hs : ∃ u, step (running pc acc words) = .next u) :
    step (running pc acc words) = .next t := by
  obtain ⟨u, hu⟩ := hs
  simp only [after, hu] at h
  rw [hu, h]

theorem witness_DecodeReadsBackEveryEncoding :
    (Instr.orderA 1023#10 .long).wellFormedIn codeTable = true ∧
    (Instr.unknownCode 0b10100#5 0#10 .short).wellFormedIn codeTable = true := by decide

theorem witness_SymbolsAndCodesRoundTrip :
    (codeTable.map Prod.fst).Nodup ∧ codeOf codeTable .bang = some 0b00010#5 ∧
    firstSymbol codeTable 0b00010#5 = some .W := by decide

/-- `CODE_TABLE` has what the source fixes of it. -/
theorem codeTable_lawful_witness : codeTable.Lawful :=
  ⟨fun s => by cases s <;> rfl, by decide, rfl, fun r s => by cases r <;> cases s <;> decide⟩

/-- A lawful table, a symbol with a code of its own, and the shared code. -/
theorem witness_LawfulTablesShareOneCode :
    codeTable.Lawful ∧ codeOf codeTable .A = some 0b11100#5 ∧
    codeOf codeTable .bang = some 0b00010#5 := ⟨codeTable_lawful_witness, rfl, rfl⟩

theorem witness_LoadedLinesDecodeToTheirOrders : codeTable.Lawful := codeTable_lawful_witness

/-- Clauses at the bounds: no symbol, no digits, 1023 and 1024. -/
theorem witness_TapeLinesParseAndEncode :
    codeTable.Lawful ∧
    symbolOfChar codeTable 'a' = none ∧ symbolOfChar codeTable 'A' = some .A ∧
    (∀ d ∈ ['1', '0', '2', '3'], isDigit d = true) ∧ (∀ d ∈ ([] : List Char), isDigit d = true) ∧
    decimal ['1', '0', '2', '3'] = 1023 ∧ decimal ['1', '0', '2', '4'] = 1024 ∧
    isDigit 'F' = false ∧ ([] : List Char).head? = none :=
  ⟨codeTable_lawful_witness, by decide, by decide, List.all_eq_true.1 rfl, List.all_eq_true.1 rfl, rfl, rfl, by decide, rfl⟩

/-- The last index and the first one out of range, with another index beside it. -/
theorem witness_BitMemoryKeepsItsLaws : (16 < 17 ∧ 0 ≠ 16) ∧ 17 ≤ 17 := by decide

theorem witness_WordAccessorsAreBitReads : (0 < 1024) ∧ 1023 < 1024 := by decide

theorem witness_WordWritesAreBitWrites : Memory.wf (at33 0#71 0x07852#17).config (at33 0#71 0x07852#17).mem = true := by decide

/-- The first and the last bit of the field of word 1023, and their neighbours. -/
theorem witness_AddressStoreWritesOnlyItsField :
    inAddressField 1023#10 17397 ∧ inAddressField 1023#10 17406 ∧
    ¬inAddressField 1023#10 17396 ∧ ¬inAddressField 1023#10 17407 := by decide

/-- `U41F` at 33 with ACC 4: the last bit of word 41's field, 1 in `P5F`, becomes 0. -/
theorem witness_OnlyStoresChangeMemory :
    step (at33 4#71 0x07852#17) = .next (after (at33 4#71 0x07852#17)) ∧
    (after (at33 4#71 0x07852#17)).bit (17 * 41 + 15) ≠ (at33 4#71 0x07852#17).bit (17 * 41 + 15) :=
  ⟨rfl, by decide⟩

/-- A store to word 31 under protection: word 30 is the last protected one. -/
theorem witness_ProtectedRomNeverChanges :
    (protectedRom (at33 4#71 0x0783E#17)).config.romWrite = .fault ∧ 30 < 31 ∧
    step (protectedRom (at33 4#71 0x0783E#17)) =
      .next (after (protectedRom (at33 4#71 0x0783E#17))) := ⟨rfl, by decide, rfl⟩

/-- The largest value U stores, to the first word that is not protected. -/
theorem witness_StoredFieldIsFetchedNext :
    (protectedRom (at33 1023#71 0x0783E#17)).acc.toNat < 2 ^ 10 ∧
    ¬((31#10).toNat < 31 ∧ (protectedRom (at33 1023#71 0x0783E#17)).config.romWrite = .fault) := by
  decide

/-- Both clauses, at the last word and past it. -/
theorem witness_StepRunsTheDecodedOrder :
    (running 1023 0#71 []).admitted = true ∧ (running 1023 0#71 []).pc < 1024 ∧
    (running 1024 0#71 []).admitted = true ∧ 1024 ≤ (running 1024 0#71 []).pc := by decide

/-- Each of the four clauses; the third also in a call that answers a state. -/
theorem witness_AdmissionDecidesWhatRuns :
    State.reset.programLoaded = false ∧ State.reset.admitted = false ∧
    ((running 33 0#71 []).setStatus .halted).programLoaded = true ∧
    ((running 33 0#71 []).setStatus .halted).status.ends = true ∧
    (hostStep State.reset).2 = .next State.reset ∧
    (hostStart 3 State.reset).2 = .next State.reset ∧
    (running 33 0#71 []).admitted = true := ⟨rfl, rfl, rfl, rfl, rfl, rfl, rfl⟩

/-- A fault of a fetched order, a fault of the fetch, and a stopped machine. -/
theorem witness_FaultsWriteOnlyTheStatus :
    (at33 0#71 0x1580A#17).admitted = true ∧
    step (at33 0#71 0x1580A#17) = .next (after (at33 0#71 0x1580A#17)) ∧
    (after (at33 0#71 0x1580A#17)).status = .faulted (.unimplementedInstruction .H) ∧
    step (running 1024 0#71 []) = .next (after (running 1024 0#71 [])) ∧
    (after (running 1024 0#71 [])).status = .faulted (.outOfBounds .fetch 1024) ∧
    step (after (at33 0#71 0x1580A#17)) = .next (after (at33 0#71 0x1580A#17)) :=
  ⟨rfl, rfl, by decide, rfl, by decide, rfl⟩

/-- Z, and O with the sentinel V. -/
theorem witness_StatusMovesAsTheTableSays :
    (at33 0#71 0x0D800#17).admitted = true ∧
    step (at33 0#71 0x0D800#17) = .next (after (at33 0#71 0x0D800#17)) ∧
    (after (at33 0#71 0x0D800#17)).status = .halted := ⟨rfl, rfl, by decide⟩

/-- A G that branches and an S, both without a fault. -/
theorem witness_CompletionAdvancesThePc :
    (at33 5#71 0x1B848#17).admitted = true ∧
    step (at33 5#71 0x1B848#17) = .next (after (at33 5#71 0x1B848#17)) ∧
    (∀ f, (after (at33 5#71 0x1B848#17)).status ≠ .faulted f) ∧
    (at33 5#71 0x1B848#17).symbolAt 33 ≠ some .Z ∧
    (at33 5#71 0x1B848#17).symbolAt 33 ≠ some .O := by
  refine ⟨rfl, rfl, fun f h => ?_, by decide, by decide⟩
  have : (after (at33 5#71 0x1B848#17)).status = .running := by decide
  rw [this] at h
  cases h

theorem witness_HostReadsOneBit :
    (1023 < 1024 ∧ 16 < 17) ∧ 17408 ≤ 17408 ∧ ¬ 1024 < 1024 := by decide

theorem witness_StartIsTheStepRepeated :
    (at33 0#71 0x0D800#17).admitted = true ∧ (at33 0#71 0x0D800#17).stepMode = false ∧
    (setStepMode (at33 0#71 0x0D800#17) true).admitted = true := by decide

/-- `decodesAs`: a word with each opcode a statement names, for either spare bit. -/
theorem witness_decodesAs :
    ∀ c : Code, opcodeField (layoutWord c 0#1 1023#10 1#1) = c ∧
      opcodeField (layoutWord c 1#1 0#10 0#1) = c := by decide

/-- The largest sum (A-6). -/
theorem witness_AddedSumReadsBack :
    ((at33 (BitVec.ofNat 71 (2 ^ 70 - 6)) 0x1C852#17).tag 33).hasAddress = true ∧
    (at33 (BitVec.ofNat 71 (2 ^ 70 - 6)) 0x1C852#17).acc.toNat +
      ((at33 (BitVec.ofNat 71 (2 ^ 70 - 6)) 0x1C852#17).addr (41#10).toNat).toNat < 2 ^ 70 := by decide

/-- A-6: the largest sum is reached, and its sign bit is clear before. -/
theorem witness_SignBitStaysClear :
    (at33 (BitVec.ofNat 71 (2 ^ 70 - 6)) 0x1C852#17).acc.getMsbD 0 = false ∧
    step (at33 (BitVec.ofNat 71 (2 ^ 70 - 6)) 0x1C852#17) =
      .next (after (at33 (BitVec.ofNat 71 (2 ^ 70 - 6)) 0x1C852#17)) := ⟨by decide, rfl⟩

/-- T-2. -/
theorem witness_OnlyTDecreasesTheAccumulator :
    step (at33 63#71 0x05800#17) = .next (after (at33 63#71 0x05800#17)) ∧
    (after (at33 63#71 0x05800#17)).acc.toNat < (at33 63#71 0x05800#17).acc.toNat :=
  ⟨rfl, by decide⟩

/-- A T that stores, and the bits next to the field it stores to. -/
theorem witness_TransferOrderClears :
    exec (.orderT 41#10 .short) (storing (at33 4#71 0x05852#17)) =
      .next (afterOrder (.orderT 41#10 .short) (storing (at33 4#71 0x05852#17))) ∧
    ¬inAddressField 41#10 702 ∧ ¬inAddressField 41#10 713 := ⟨rfl, by decide, by decide⟩

/-- A U that stores 1023. -/
theorem witness_StoreOrderWritesTheAddressField :
    exec (.orderU 41#10 .short) (at33 1023#71 0x07852#17) =
      .next (afterOrder (.orderU 41#10 .short) (at33 1023#71 0x07852#17)) ∧
    ¬inAddressField 41#10 702 ∧ ¬inAddressField 41#10 713 ∧
    (afterOrder (.orderU 41#10 .short) (at33 1023#71 0x07852#17)).status =
      (at33 1023#71 0x07852#17).status ∧
    (afterOrder (.orderU 41#10 .short) (at33 1023#71 0x07852#17)).pc = 34 := by
  refine ⟨rfl, ?_⟩
  decide

/-- Both polarities. -/
theorem witness_BranchToWordZeroDrawsScr :
    (at33 0#71 0x1B800#17).acc.getMsbD 0 =
      ((at33 0#71 0x1B800#17).config.gPolarity == .branchIfNegative) ∧
    (BitVec.ofNat 71 (2 ^ 70)).getMsbD 0 = (GPolarity.branchIfNegative == .branchIfNegative) := by
  decide

/-- A machine that Z has halted, and the refused calls after it. -/
theorem witness_StopOrderHalts :
    exec (.orderZ 17#10 .long) (at33 7#71 0x0D823#17) =
      .next (afterOrder (.orderZ 17#10 .long) (at33 7#71 0x0D823#17)) ∧
    step (afterOrder (.orderZ 17#10 .long) (at33 7#71 0x0D823#17)) =
      .next (afterOrder (.orderZ 17#10 .long) (at33 7#71 0x0D823#17)) ∧
    (hostStart 9 (afterOrder (.orderZ 17#10 .long) (at33 7#71 0x0D823#17))).2 =
      .next (afterOrder (.orderZ 17#10 .long) (at33 7#71 0x0D823#17)) := ⟨rfl, rfl, rfl⟩

/-- One operand for each clause: fields 32, 20 and 31 (O-5, O-4, O-1). -/
theorem witness_OutputOrderEmitsOrFaults :
    32 ≤ ((running 33 0#71 [(41, 0x00040#17)]).addr 41).toNat ∧
    ((running 33 0#71 [(41, 0x00028#17)]).addr 41).toNat < 32 ∧
    decodeOpcode (running 33 0#71 []).config.codeTable
        (BitVec.ofNat 5 ((running 33 0#71 [(41, 0x00028#17)]).addr 41).toNat) = none ∧
    ((running 33 0#71 [(41, 0x0003E#17)]).addr 41).toNat < 32 ∧
    decodeOpcode (running 33 0#71 []).config.codeTable
        (BitVec.ofNat 5 ((running 33 0#71 [(41, 0x0003E#17)]).addr 41).toNat) = some [.V] := by decide

/-- An O that emits T (O-2). -/
theorem witness_OutputGrowsOnlyByO :
    step (at33 0#71 0x09852#17) = .next (after (at33 0#71 0x09852#17)) ∧
    (after (at33 0#71 0x09852#17)).output ≠ (at33 0#71 0x09852#17).output := ⟨rfl, by decide⟩

theorem witness_UnhandledOrdersFailAtDispatch :
    Symbol.P ∈ unhandledSymbols ∧ Symbol.V ∈ unhandledSymbols ∧ unhandledSymbols.length = 24 := by
  decide

theorem witness_IdleStateIsNeitherReadNorWritten :
    step (at33 5#71 0x1B848#17) = .next (after (at33 5#71 0x1B848#17)) := rfl

/-- Two memories that differ in the spare and the length bit of word 31. -/
theorem witness_SpareAndLengthBitsNeverMatter :
    AlikeButIgnoredBits { running 33 5#71 [] with mem := [(31, 0x1C83E#17)] }
      { running 33 5#71 [] with mem := [(31, 0x1C03F#17)] } ∧
    step { running 33 5#71 [] with mem := [(31, 0x1C83E#17)] } =
      .next (after { running 33 5#71 [] with mem := [(31, 0x1C83E#17)] }) := by
  refine ⟨⟨rfl, rfl, rfl, ⟨rfl, rfl⟩, rfl, rfl, fun w => ?_, fun _ => rfl, fun _ => rfl, fun _ => rfl,
    rfl, rfl, rfl, rfl, rfl, rfl, rfl⟩, rfl⟩
  by_cases h : w = 31
  · subst h
    exact ⟨by decide, by decide⟩
  · simp only [State.word, storeRead, if_neg h]
    exact ⟨rfl, rfl⟩

/-- A U that changes a tag's address. -/
theorem witness_StepsKeepTagsButTheirAddress :
    step (at33 4#71 0x07852#17) = .next (after (at33 4#71 0x07852#17)) ∧
    ((after (at33 4#71 0x07852#17)).tag 41).address ≠ ((at33 4#71 0x07852#17).tag 41).address :=
  ⟨rfl, by decide⟩

/-- A G to word 0, which draws. -/
theorem witness_StepsKeepTheConfiguration :
    step (at33 0#71 0x1B800#17) = .next (after (at33 0#71 0x1B800#17)) ∧
    (after (at33 0#71 0x1B800#17)).draws ≠ (at33 0#71 0x1B800#17).draws := ⟨rfl, by decide⟩

/-- The invariant of a loaded machine at the end of memory. -/
theorem witness_StepKeepsTheInvariant :
    (running 1024 0#71 []).Inv ∧
    step (running 1024 0#71 []) = .next (after (running 1024 0#71 [])) := by
  refine ⟨⟨rfl, rfl, by decide, fun w _ => ?_⟩, rfl⟩
  show (resetTag Config.standard w).address = addressField (resetWord Config.standard w) ∧
    ((resetTag Config.standard w).length = .long ↔
      (resetWord Config.standard w).getMsbD 16 = true)
  by_cases h : w < 31
  · have low : ∀ w < 31,
        (resetTag Config.standard w).address = addressField (resetWord Config.standard w) ∧
        ((resetTag Config.standard w).length = .long ↔
          (resetWord Config.standard w).getMsbD 16 = true) := by decide
    exact low w h
  · rw [resetTag_high _ (Nat.le_of_not_lt h), resetWord_high _ (Nat.le_of_not_lt h)]
    decide

/-- The invariant of an Idle machine, which a load is admitted in. -/
theorem witness_LoadTapeKeepsTheInvariant :
    { running 1024 0#71 [] with status := .idle }.Inv :=
  ⟨rfl, rfl, by decide, witness_StepKeepsTheInvariant.1.tagsAgree⟩

/-- A reachable state that has run: the first order of a loaded tape. -/
theorem witness_ReachableStatesHaveTheInvariant :
    ∃ s, Reachable Config.standard s ∧ s.pc = 32 ∧ s.acc = 31#71 :=
  ⟨after (loadTape State.reset [['A', '3', '1', 'F']]).2,
    .step (.load [['A', '3', '1', 'F']] .built) rfl, by decide, by decide⟩

theorem witness_ReachableBranchesAreTaken :
    ∃ s, Reachable Config.standard s ∧ Config.standard.gPolarity = .branchIfNonnegative ∧
      s.acc = 31#71 :=
  ⟨after (loadTape State.reset [['A', '3', '1', 'F']]).2,
    .step (.load [['A', '3', '1', 'F']] .built) rfl, rfl, by decide⟩

/-- A running machine without the unknown opcode, and its step. -/
theorem witness_UnknownOpcodeNeverArises :
    (running 1023 0#71 []).noUnknownOpcode ∧
    step (running 1023 0#71 []) = .next (after (running 1023 0#71 [])) := by
  refine ⟨fun w _ => ?_, rfl⟩
  show firstSymbol codeTable (opcodeField (resetWord Config.standard w)) ≠ none
  by_cases h : w < 31
  · have low : ∀ w < 31,
        firstSymbol codeTable (opcodeField (resetWord Config.standard w)) ≠ none := by decide
    exact low w h
  · rw [resetWord_high _ (Nat.le_of_not_lt h)]
    decide

/-- The last word of the bootstrap image, and the first one after it. -/
theorem witness_ConstructionLeavesTheResetState : 30 < 31 ∧ 31 ≤ 31 := by decide

theorem witness_BootstrapWritesItsPatterns :
    State.reset.config.bootRom[30]? = some "11011 0 0000000110 0" ∧ 30 < 31 ∧ 16 < 17 ∧
    31 ≤ 31 := by decide

theorem witness_LoadTapeOutsideIdleIsRefused : (running 33 0#71 []).status ≠ .idle := by decide

/-- The longest tape that loads: 993 lines `PF`, in status Idle. -/
theorem witness_LoadedTapeStandsInMemory_993 :
    State.reset.status = .idle ∧
    (∀ line ∈ List.replicate 993 ['P', 'F'], isComment line = false →
      ∃ r, parseInstructionLine State.reset.config.codeTable line = .ok r) ∧
    ((List.replicate 993 ['P', 'F']).filter fun x => !isComment x).length ≤ 993 := by
  refine ⟨rfl, fun line h _ => ⟨⟨.P, false, 0#10, .short⟩, ?_⟩, ?_⟩
  · rw [List.eq_of_mem_replicate h]
    rfl
  · exact (List.length_filter_le _ _).trans (Nat.le_of_eq List.length_replicate)

/-- A tape with a comment: its two words, and the words next to them. -/
theorem witness_LoadedTapeStandsInMemory :
    loadTape State.reset [['#'], ['A', '3', '1', 'F'], ['Z']] =
      (.loaded, (loadTape State.reset [['#'], ['A', '3', '1', 'F'], ['Z']]).2) ∧
    ([['#'], ['A', '3', '1', 'F'], ['Z']].filter fun x => !isComment x)[1]? = some ['Z'] ∧
    30 < 31 ∧ 31 + 2 ≤ 33 := ⟨rfl, by decide, by decide, by decide⟩

/-- A load that keeps the words before a failed one, and one that undoes them. -/
def undoing (s : State) : State := { s with config := { s.config with loadAtomic := .atomic } }

theorem witness_FailedLoadStopsAtItsLine :
    loadTape State.reset [['A', '3', '1', 'F'], ['a']] =
      (.failed 2 (.unknownInstruction 2 'a'),
        (loadTape State.reset [['A', '3', '1', 'F'], ['a']]).2) ∧
    State.reset.config.loadAtomic = .partialLoad ∧
    ([['A', '3', '1', 'F']].filter fun x => !isComment x)[0]? = some ['A', '3', '1', 'F'] ∧
    loadTape (undoing State.reset) [['A', '3', '1', 'F'], ['a']] =
      (.failed 2 (.unknownInstruction 2 'a'), undoing State.reset) ∧
    (undoing State.reset).config.loadAtomic = .atomic := ⟨rfl, rfl, by decide, rfl, rfl⟩

/-- Loading `k` lines `PF` from word `w` on, more than there is room for, fails at the first that does
not fit. -/
theorem load_too_long (k i w : Nat) (s : State) (hw : w ≤ 1024) (h : 1024 < w + k)
    (hc : s.config.codeTable = codeTable) : ∃ t, loadLines (List.replicate k ['P', 'F']) i w s =
      (.failed (i + (1024 - w)) (.outOfBounds .load 1024), t) := by
  induction k generalizing i w s with
  | zero => omega
  | succ k ih =>
    rw [List.replicate_succ]
    unfold loadLines
    rw [if_neg (by decide)]
    by_cases hlast : w = 1024
    · subst hlast
      exact ⟨s, by rw [if_pos (by decide)]; rfl⟩
    · rw [if_neg (by simp only [Config.memWords]; omega)]
      obtain ⟨t, ht⟩ := ih (i + 1) (w + 1)
        (storeLine s w ⟨.P, false, 0#10, .short⟩ 0x00800#17) (by omega) (by omega) hc
      have hl : lineWord s.config.codeTable i ['P', 'F'] =
          .ok (⟨.P, false, 0#10, .short⟩, 0x00800#17) := by rw [hc]; rfl
      refine ⟨t, ?_⟩
      simp only [hl]
      rw [show i + (1024 - w) = i + 1 + (1024 - (w + 1)) by omega]
      exact ht

/-- A load of a fresh machine is the load loop from word 31. -/
theorem loadTape_reset (lines : List TapeLine) :
    loadTape State.reset lines = settleLoad State.reset (loadLines lines 1 31 State.reset) := rfl

/-- L-4: the 994th word; and a line that fails on its own. -/
theorem witness_LoadFaultsNameTheirLine :
    (∃ t, loadTape State.reset (List.replicate 994 ['P', 'F']) =
      (.failed 994 (.outOfBounds .load 1024), t)) ∧
    (((List.replicate 994 ['P', 'F']).take 993).filter fun x => !isComment x).length = 993 ∧
    loadTape State.reset [['A', '1', '0', '2', '4']] =
      (.failed 1 (.malformedInstructionLine 1 .addressAbove1023), State.reset) := by
  refine ⟨?_, ?_, rfl⟩
  · obtain ⟨t, ht⟩ := load_too_long 994 1 31 State.reset (by decide) (by decide) rfl
    exact ⟨t, by rw [loadTape_reset, ht]; rfl⟩
  · rw [List.take_replicate, List.filter_eq_self.2]
    · exact List.length_replicate
    · intro a ha
      rw [List.eq_of_mem_replicate ha]
      rfl

/-- A `pc` in memory, and a word beside the placed one. -/
theorem witness_StepRunsThePlacedWord : State.reset.pc < 1024 ∧ 30 ≠ State.reset.pc := by decide

end Sys2Proof.Tests
end

section
/-!
PROOFS. Main memory by logical bit index: what each write leaves at each bit, and that a memory in canonical
form is the bits it reads as.  A word or field write and the pseudocode's bit-by-bit write (00_scope.md R9,
20_memory.md R55) leave the same bits, so they leave the same memory.
-/

namespace Sys2Proof.Machine

/-! ### Bits of a word -/

/-- The one bit put reads back; every other bit is kept (20_memory.md R50). -/
theorem getMsbD_put {capacity : Nat} (m : BitVec capacity) {i : Nat} (b : Bool) (j : Nat)
    (hi : i < capacity) :
    (BitMemory.put m i b).getMsbD j = if j = i then b else m.getMsbD j := by
  have hbit : (BitVec.twoPow capacity (capacity - 1 - i)).getMsbD j = decide (j = i) := by
    rw [BitVec.getMsbD_twoPow, Bool.eq_iff_iff]
    simp only [Bool.and_eq_true, decide_eq_true_eq]
    omega
  by_cases h : j = i
  · subst h
    cases b <;> simp [BitMemory.put, hbit, hi]
  · cases b
    · by_cases hj : j < capacity
      · simp [BitMemory.put, hbit, h, hj]
      · simp [BitMemory.put, h, hj, BitVec.getMsbD_of_ge m j (Nat.le_of_not_lt hj)]
    · simp [BitMemory.put, hbit, h]

/-- The word laid out from four fields, bit by bit (30_encoding.md R71). -/
theorem getMsbD_layoutWord (c : Code) (p : BitVec 1) (n : Addr) (l : BitVec 1) (j : Nat) :
    (layoutWord c p n l).getMsbD j =
      if 16 ≤ j then l.getMsbD (j - 16) else if 6 ≤ j then n.getMsbD (j - 6)
      else if 5 ≤ j then p.getMsbD (j - 5) else c.getMsbD j := by
  have hlast : (layoutWord c p n l).getMsbD j =
      if 16 ≤ j then l.getMsbD (j - 16) else (c ++ p ++ n).getMsbD j := BitVec.getMsbD_append
  have hmiddle : (c ++ p ++ n).getMsbD j =
      if 6 ≤ j then n.getMsbD (j - 6) else (c ++ p).getMsbD j := BitVec.getMsbD_append
  rw [hlast, hmiddle, BitVec.getMsbD_append]

/-- The word with its address field replaced, bit by bit: indices 6..15 are the new address
(30_encoding.md R71). -/
theorem getMsbD_setAddressField (w : Word) (a : Addr) (j : Nat) :
    (setAddressField w a).getMsbD j =
      if 6 ≤ j ∧ j < 16 then a.getMsbD (j - 6) else w.getMsbD j := by
  conv => rhs; rw [← layoutWord_fields w]
  rw [setAddressField, getMsbD_layoutWord, getMsbD_layoutWord]
  by_cases h16 : 16 ≤ j
  · simp [h16, Nat.not_lt.2 h16]
  · by_cases h6 : 6 ≤ j
    · simp [h16, h6, Nat.lt_of_not_le h16]
    · simp [h16, h6]

/-! ### Bits of memory after a write -/

theorem bit_setWord (s : State) (w : Addr) (v : Word) (j : Nat) :
    (s.setWord w v).bit j =
      if j / Config.wordBits = w.toNat then v.getMsbD (j % Config.wordBits) else s.bit j := by
  unfold State.bit
  rw [word_setWord]
  split <;> rfl

theorem bit_putBit (s : State) {i : Nat} (b : Bool) (j : Nat) (hi : i < Config.memBits) :
    (s.putBit i b).bit j = if j = i then b else s.bit j := by
  have hw : (BitVec.ofNat 10 (i / Config.wordBits)).toNat = i / Config.wordBits := by
    simp only [Config.memBits, Config.memWords, Config.wordBits] at hi
    simp only [BitVec.toNat_ofNat, Config.wordBits]
    omega
  have hmod : i % Config.wordBits < 17 := Nat.mod_lt i (by decide)
  rw [State.putBit, bit_setWord, hw, getMsbD_put _ _ _ hmod]
  by_cases hword : j / Config.wordBits = i / Config.wordBits
  · have hij : j % Config.wordBits = i % Config.wordBits ↔ j = i := by
      simp only [Config.wordBits] at hword ⊢
      omega
    simp only [hword, if_true, hij, State.bit]
  · have hij : j ≠ i := fun h => hword (by rw [h])
    simp only [hword, hij, if_false]

/-- A read after `MemWrite`, bit by bit: the value's bits inside the range written, the old bits outside
(00_scope.md R9). -/
theorem bit_putBits {n : Nat} (s : State) (a : Nat) (v : BitVec n) (k j : Nat)
    (h : a + k ≤ Config.memBits) :
    (s.putBits a v k).bit j = if a ≤ j ∧ j < a + k then v.getMsbD (j - a) else s.bit j := by
  induction k with
  | zero => rw [State.putBits, if_neg (by omega)]
  | succ k ih =>
    rw [State.putBits, bit_putBit _ _ _ (by omega), ih (by omega)]
    by_cases hj : j = a + k
    · rw [if_pos hj, if_pos (by omega)]
      congr 1
      omega
    · rw [if_neg hj]
      congr 1
      rw [eq_iff_iff]
      omega

theorem bit_setAddr (s : State) (n a : Addr) (j : Nat) :
    (s.setAddr n a).bit j =
      if inAddressField n j then a.getMsbD (j - (17 * n.toNat + 6)) else s.bit j := by
  rw [State.bit, word_setAddr]
  by_cases hword : j / Config.wordBits = n.toNat
  · have hfield : (6 ≤ j % Config.wordBits ∧ j % Config.wordBits < 16) ↔ inAddressField n j := by
      simp only [Config.wordBits] at hword ⊢
      omega
    have hoffset : j % Config.wordBits - 6 = j - (17 * n.toNat + 6) := by
      simp only [Config.wordBits] at hword ⊢
      omega
    simp only [if_pos hword, getMsbD_setAddressField, hfield, hoffset, State.bit]
  · have hout : ¬inAddressField n j := by
      simp only [Config.wordBits] at hword
      omega
    rw [if_neg hword, if_neg hout, State.bit]

/-! ### What a bit-by-bit write keeps -/

theorem putBits_frame {n : Nat} (s : State) (a : Nat) (v : BitVec n) (k : Nat) :
    s.putBits a v k = { s with mem := (s.putBits a v k).mem } := by
  induction k with
  | zero => rfl
  | succ k ih =>
    rw [State.putBits, State.putBit, ih]
    rfl

theorem memoryWf_putBits {n : Nat} {s : State} (a : Nat) (v : BitVec n) (k : Nat)
    (h : Memory.wf s.config s.mem = true) :
    Memory.wf s.config (s.putBits a v k).mem = true := by
  induction k with
  | zero => exact h
  | succ k ih =>
    have hc : (s.putBits a v k).config = s.config := by rw [putBits_frame]
    rw [← hc] at ih ⊢
    exact memoryWf_setWord _ _ ih

/-! ### A canonical memory is its bits -/

/-- Two states that read alike in every bit read alike in every word (20_memory.md R51). -/
theorem word_eq_of_bit_eq {s t : State} (h : ∀ i, s.bit i = t.bit i) (w : Nat) :
    s.word w = t.word w := by
  apply BitVec.eq_of_getMsbD_eq
  intro k hk
  have hbit := h (17 * w + k)
  simp only [State.bit, Config.wordBits] at hbit
  rwa [show (17 * w + k) / 17 = w by omega, show (17 * w + k) % 17 = k by omega] at hbit

/-- Two memories in canonical form that read alike in every bit are equal data (log 1). -/
theorem mem_eq_of_bit_eq {s t : State} (hc : t.config = s.config)
    (hs : Memory.wf s.config s.mem = true) (ht : Memory.wf t.config t.mem = true)
    (h : ∀ i, s.bit i = t.bit i) : s.mem = t.mem := by
  rw [hc] at ht
  simp only [Memory.wf, storeWf, Bool.and_eq_true, List.all_eq_true, decide_eq_true_eq] at hs ht
  obtain ⟨hrising, hlisted⟩ := hs
  obtain ⟨hrising', hlisted'⟩ := ht
  refine storeRising_ext (resetWord s.config) hrising hrising' hlisted hlisted' fun w => ?_
  have hw := word_eq_of_bit_eq h w
  simpa only [State.word, hc] using hw

/-- `MemWrite` in range leaves the memory of any write that leaves the same bits. -/
theorem memWrite_eq_of_bit {n : Nat} {s t : State} (a : Nat) (v : BitVec n)
    (hs : Memory.wf s.config s.mem = true) (hrange : a + n ≤ Config.memBits)
    (hc : t.config = s.config) (ht : Memory.wf t.config t.mem = true)
    (hbit : ∀ j, t.bit j = if a ≤ j ∧ j < a + n then v.getMsbD (j - a) else s.bit j) :
    memWrite s a v = .ok { s with mem := t.mem } := by
  have hc' : (s.putBits a v n).config = s.config := by rw [putBits_frame]
  have hmem : (s.putBits a v n).mem = t.mem :=
    mem_eq_of_bit_eq (hc.trans hc'.symm) (by rw [hc']; exact memoryWf_putBits a v n hs) ht
      fun j => by rw [bit_putBits s a v n j hrange, hbit]
  rw [memWrite, if_neg (Nat.not_lt.2 hrange), putBits_frame, hmem]

/-! ### O10 -/

/-- `MemWrite(17·w, 17, v)` writes all of word `w` (20_memory.md R54). -/
theorem memWrite_word {s : State} (h : Memory.wf s.config s.mem = true) (w : Addr) (v : Word) :
    memWrite s (17 * w.toNat) v = .ok (s.setWord w v) := by
  have hw := w.isLt
  refine memWrite_eq_of_bit (t := s.setWord w v) _ v h ?_ rfl (memoryWf_setWord w v h) fun j => ?_
  · simp only [Config.memBits, Config.memWords, Config.wordBits]
    omega
  · rw [bit_setWord]
    by_cases hj : j / Config.wordBits = w.toNat
    · rw [if_pos hj]
      simp only [Config.wordBits] at hj ⊢
      rw [if_pos (by omega)]
      congr 1
      omega
    · rw [if_neg hj]
      simp only [Config.wordBits] at hj
      rw [if_neg (by omega)]

/-- `MemWrite(17·n + 6, 10, a)` writes the address field of word `n` (20_memory.md R55). -/
theorem memWrite_addressField {s : State} (h : Memory.wf s.config s.mem = true) (n a : Addr) :
    memWrite s (17 * n.toNat + 6) a = .ok { s with mem := (s.setAddr n a).mem } := by
  have hn := n.isLt
  refine memWrite_eq_of_bit _ a h ?_ rfl (memoryWf_setAddr n a h) (bit_setAddr s n a)
  simp only [Config.memBits, Config.memWords, Config.wordBits]
  omega

/-- Settles O10: both writes leave the bits of the bit-by-bit write, and a canonical memory is its bits. -/
theorem wordWritesAreBitWrites : Obligations.WordWritesAreBitWrites :=
  fun _ h => ⟨memWrite_word h, memWrite_addressField h⟩

end Sys2Proof.Machine
end

section
/-!
PROOFS. The two registers and the two host flags that no order uses (10_state.md R23, R24, R34): a state with
other values in them runs beside the first one, handler by handler, up to the step.
-/

namespace Sys2Proof.Machine

/-- Values of the Multiplier, the Multiplicand and the two host flags. -/
structure IdleValues where
  mr : LongWord
  md : LongWord
  stepMode : Bool
  debugMode : Bool

/-- The state with these values in the four components no order uses. -/
def State.withIdle (s : State) (v : IdleValues) : State :=
  { s with mr := v.mr, md := v.md, stepMode := v.stepMode, debugMode := v.debugMode }

variable (v : IdleValues)

/-! ### Every handler runs beside the idle values -/

theorem addOrder_withIdle (n : Addr) (s : State) :
    addOrder n (s.withIdle v) = (addOrder n s).map (·.withIdle v) := by
  unfold addOrder
  rw [apply_ite (Except.map _), apply_ite (Except.map _)]
  rfl

theorem storeAcc_withIdle (n : Addr) (s : State) :
    storeAcc (s.withIdle v) n = (storeAcc s n).map (·.withIdle v) := by
  unfold storeAcc
  rw [apply_ite (Except.map _), apply_ite (Except.map _)]
  rfl

/-- The store of U and T with what follows it. -/
theorem storeOrder_withIdle (f : State → State)
    (hf : ∀ u : State, f (u.withIdle v) = (f u).withIdle v) (n : Addr) (s : State) :
    (storeAcc (s.withIdle v) n).map f = ((storeAcc s n).map f).map (·.withIdle v) := by
  rw [storeAcc_withIdle]
  cases storeAcc s n with
  | error e => rfl
  | ok u => exact congrArg Except.ok (hf u)

theorem transferOrder_withIdle (n : Addr) (s : State) :
    transferOrder n (s.withIdle v) = (transferOrder n s).map (·.withIdle v) := by
  have hpc : (s.withIdle v).pc = s.pc := rfl
  have hmode : (s.withIdle v).config.tMode = s.config.tMode := rfl
  unfold transferOrder
  rw [hpc, hmode]
  by_cases h : s.pc = 31
  · rw [if_pos h, if_pos h]; rfl
  · rw [if_neg h, if_neg h]
    cases s.config.tMode with
    | legacy => rfl
    | storeThenClear => exact storeOrder_withIdle v _ (fun _ => rfl) n s

theorem branchOrder_withIdle (n : Addr) (s : State) :
    branchOrder n (s.withIdle v) = (branchOrder n s).withIdle v := by
  unfold branchOrder branchTo
  rw [apply_ite (State.withIdle · v), apply_ite (State.withIdle · v)]
  rfl

theorem outputOrder_withIdle (n : Addr) (s : State) :
    outputOrder n (s.withIdle v) = (outputOrder n s).map (·.withIdle v) := by
  rcases outputOrder_cases n s with ⟨f, hf, e⟩ | ⟨c, hc, e⟩
  · rw [e]
    exact congrArg (Except.map _) hf
  · rw [e]
    exact congrArg (Except.map _) hc

/-! ### The order and the step -/

variable {v}

theorem finish_withIdle {s t : State} {r r' : Except Fault State} (h : finish s r = .next t)
    (hr : r' = r.map (·.withIdle v)) : finish (s.withIdle v) r' = .next (t.withIdle v) := by
  subst hr
  rcases finish_eq_next h with rfl | ⟨f, rfl, rfl⟩ <;> rfl

/-- S, Z and the orders without a handler test nothing of the state, so their two runs agree by definition. -/
theorem exec_withIdle {i : Instr} {s t : State} (h : exec i s = .next t) :
    exec i (s.withIdle v) = .next (t.withIdle v) := by
  cases i with
  | orderA n l => exact finish_withIdle h (addOrder_withIdle v n s)
  | orderT n l => exact finish_withIdle h (transferOrder_withIdle v n s)
  | orderU n l => exact finish_withIdle h (storeOrder_withIdle v completed (fun _ => rfl) n s)
  | orderG n l => cases h; exact congrArg Host.Outcome.next (branchOrder_withIdle v n s)
  | orderO n l => exact finish_withIdle h (outputOrder_withIdle v n s)
  | _ => cases h; rfl

theorem iterate_withIdle {s t : State} (h : iterate s = .next t) :
    iterate (s.withIdle v) = .next (t.withIdle v) := by
  unfold iterate at h
  by_cases hp : fetchable s = true
  · rw [if_pos hp] at h
    exact (if_pos hp).trans (exec_withIdle h)
  · rw [if_neg hp] at h
    exact (if_neg hp).trans (finish_withIdle h rfl)

theorem admission_withIdle (s : State) :
    admission (s.withIdle v) = (admission s).map (·.withIdle v) := by
  obtain ⟨acc, mr, md, ot, scr, pc, mem, tags, status, loaded, stepMode, debugMode, output, config,
    draws⟩ := s
  cases loaded with
  | false => rfl
  | true => cases status <;> rfl

theorem step_withIdle {s t : State} (h : step s = .next t) :
    step (s.withIdle v) = .next (t.withIdle v) := by
  unfold step at h ⊢
  rw [admission_withIdle]
  rcases admission_cases s with ⟨-, -, e⟩ | ⟨-, r, e⟩ <;> rw [e] at h ⊢
  · exact iterate_withIdle h
  · cases h
    rfl

/-- Settles O38: handler by handler, the run beside the idle values is the run itself. -/
theorem idleStateIsNeitherReadNorWritten : Obligations.IdleStateIsNeitherReadNorWritten :=
  fun _ _ mr md p q h => step_withIdle (v := ⟨mr, md, p, q⟩) h

end Sys2Proof.Machine
end

section
/-!
PROOFS. What a step leaves of memory, tags, configuration and `draws`, read off the inversion of the step once:
memory and tags are as they were, or one address field is stored.
-/

namespace Sys2Proof.Machine

/-- Memory and tags hold the same data, to be read under the same configuration. -/
structure SameStore (s t : State) : Prop where
  mem : t.mem = s.mem
  tags : t.tags = s.tags
  config : t.config = s.config

theorem SameStore.word_eq {s t : State} (h : SameStore s t) (w : Nat) : t.word w = s.word w :=
  word_congr h.mem h.config w

theorem SameStore.addr_eq {s t : State} (h : SameStore s t) (w : Nat) : t.addr w = s.addr w :=
  congrArg addressField (h.word_eq w)

theorem SameStore.tag_eq {s t : State} (h : SameStore s t) (w : Nat) : t.tag w = s.tag w :=
  tag_congr h.tags h.config w

/-- The field stored at word `n` is the one read there; every other word keeps its field. -/
theorem addr_setAddr (s : State) (n a : Addr) (b : Nat) :
    (s.setAddr n a).addr b = if b = n.toNat then a else s.addr b := by
  rw [State.addr, word_setAddr]
  split
  · exact addressField_setAddressField _ _
  · rfl

/-! ### What an order leaves -/

variable {i : Instr} {s t : State}

/-- An order keeps memory and tags, or it is a store of the address field of its operand. -/
theorem ExecEffect.store_cases (h : ExecEffect i s t) :
    SameStore s t ∨ (storesTo i s i.operand ∧ ∃ a, SameStore (s.setAddr i.operand a) t) := by
  cases h with
  | storeClear n l hi hpc hmode _ _ =>
    subst hi
    exact .inr ⟨.inr ⟨⟨l, rfl⟩, hpc, hmode⟩, _, rfl, rfl, rfl⟩
  | store n l hi _ _ =>
    subst hi
    exact .inr ⟨.inl ⟨l, rfl⟩, _, rfl, rfl, rfl⟩
  | _ => exact .inl ⟨rfl, rfl, rfl⟩

theorem ExecEffect.programLoaded_eq (h : ExecEffect i s t) : t.programLoaded = s.programLoaded := by
  cases h <;> rfl

/-- A free value is drawn by a G to word 0 and by no other order (43_control.md R183). -/
theorem ExecEffect.draws_cases (h : ExecEffect i s t) :
    t.draws = s.draws ∨ (t.draws = s.draws + 1 ∧ ∃ l, i = .orderG 0#10 l) := by
  cases h with
  | branchZero l hi _ => exact .inr ⟨rfl, l, hi⟩
  | _ => exact .inl rfl

/-- After an order `pc` is at most one further, or an operand address (40_engine.md R121, R123). -/
theorem ExecEffect.pc_le (h : ExecEffect i s t) : t.pc ≤ s.pc + 1 ∨ t.pc < 1024 := by
  cases h with
  | branch n l _ _ _ => exact .inr n.isLt
  | branchZero l _ _ => exact .inr (by simp)
  | _ => exact .inl (by simp)

/-! ### What a step leaves -/

/-- A step keeps memory and tags, or it is a store of the address field of its order's operand. -/
theorem step_store_cases (h : step s = .next t) :
    SameStore s t ∨
    (storesTo (decodeWith s.config.codeTable (s.word s.pc)) s (s.addr s.pc) ∧
      ∃ a, SameStore (s.setAddr (s.addr s.pc) a) t) := by
  rcases step_cases h with ⟨-, rfl⟩ | ⟨-, -, -, rfl⟩ | ⟨-, -, -, he⟩
  · exact .inl ⟨rfl, rfl, rfl⟩
  · exact .inl ⟨rfl, rfl, rfl⟩
  · have hstore := he.store_cases
    rw [operand_decodeWith] at hstore
    rcases hstore with ⟨hmem, htags, hconfig⟩ | ⟨hst, a, hmem, htags, hconfig⟩
    · exact .inl ⟨hmem, htags, hconfig⟩
    · exact .inr ⟨hst, a, hmem, htags, hconfig⟩

theorem step_config (h : step s = .next t) : t.config = s.config := by
  rcases step_store_cases h with hsame | ⟨-, a, hsame⟩
  · exact hsame.config
  · exact hsame.config

theorem step_programLoaded (h : step s = .next t) : t.programLoaded = s.programLoaded := by
  rcases step_cases h with ⟨-, rfl⟩ | ⟨-, -, -, rfl⟩ | ⟨-, -, -, he⟩
  · rfl
  · rfl
  · exact he.programLoaded_eq

/-- A step draws a free value only by a G to word 0 (40_engine.md R123, 43_control.md R183). -/
theorem step_draws_cases (h : step s = .next t) :
    t.draws = s.draws ∨
    (t.draws = s.draws + 1 ∧ s.symbolAt s.pc = some .G ∧ s.addr s.pc = 0#10) := by
  rcases step_cases h with ⟨-, rfl⟩ | ⟨-, -, -, rfl⟩ | ⟨-, -, -, he⟩
  · exact .inl rfl
  · exact .inl rfl
  · rcases he.draws_cases with hd | ⟨hd, l, hi⟩
    · exact .inl hd
    · have hsymbol := symbol_decodeWith s.config.codeTable (s.word s.pc)
      have hoperand := operand_decodeWith s.config.codeTable (s.word s.pc)
      rw [hi] at hsymbol hoperand
      exact .inr ⟨hd, hsymbol.symm, hoperand.symm⟩

/-- A step from a word of memory or from word 1024 leaves `pc` in 0..1024 (10_state.md R28). -/
theorem step_pc_le (h : step s = .next t) (hpc : s.pc ≤ 1024) : t.pc ≤ 1024 := by
  rcases step_cases h with ⟨-, rfl⟩ | ⟨-, -, -, rfl⟩ | ⟨-, -, hlt, he⟩
  · exact hpc
  · exact hpc
  · have hle : t.pc ≤ s.pc + 1 ∨ t.pc < 1024 := he.pc_le
    omega

/-! ### O40 and O41 -/

/-- Settles O40: a step that writes a tag is a store, which writes its address with the word's field. -/
theorem stepsKeepTagsButTheirAddress : Obligations.StepsKeepTagsButTheirAddress := by
  intro s t w h
  rcases step_store_cases h with hsame | ⟨-, a, hsame⟩
  · rw [hsame.tag_eq w]
    exact ⟨rfl, fun hne => absurd rfl hne⟩
  · rw [hsame.tag_eq w, hsame.addr_eq w, tag_setAddr, addr_setAddr]
    by_cases hw : w = (s.addr s.pc).toNat
    · rw [if_pos hw, if_pos hw]
      exact ⟨rfl, fun _ => ⟨hw, rfl⟩⟩
    · rw [if_neg hw, if_neg hw]
      exact ⟨rfl, fun hne => absurd rfl hne⟩

/-- Settles O41, by the fields an order leaves alone and the one order that draws. -/
theorem stepsKeepTheConfiguration : Obligations.StepsKeepTheConfiguration :=
  fun _ _ h => ⟨step_config h, step_programLoaded h, fun hne => (step_draws_cases h).resolve_left hne⟩

end Sys2Proof.Machine
end

section
/-!
PROOFS. The invariant of the machine (10_state.md R28, R31; 20_memory.md R51): it holds after construction, and
every step, tape load and host operation keeps it.
-/

namespace Sys2Proof.Machine

/-! ### A tag that agrees with its word -/

/-- The length a word's last bit says, index 16 (30_encoding.md R71, R73). -/
theorem ofFlag_lengthField (w : Word) :
    Length.ofFlag (lengthField w) = if w.getMsbD 16 = true then .long else .short := by
  have hflag : lengthField w = 1#1 ↔ w.getMsbD 16 = true := by
    have hbit : (lengthField w).getMsbD 0 = w.getMsbD 16 := by
      rw [← layoutWord_fields w, getMsbD_layoutWord, lengthField_layoutWord]
      rfl
    rw [← hbit]
    generalize lengthField w = b
    revert b
    decide
  simp only [Length.ofFlag, hflag]

/-- The tag's address and length are those of the word (10_state.md R31). -/
def Tag.agrees (t : Tag) (w : Word) : Prop :=
  t.address = addressField w ∧ t.length = Length.ofFlag (lengthField w)

/-- The tag invariant, tag by tag. -/
theorem tagsMatch_iff (s : State) : s.tagsMatch ↔ ∀ w, w < 1024 → (s.tag w).agrees (s.word w) := by
  refine forall_congr' fun w => imp_congr_right fun _ => and_congr_right fun _ => ?_
  rw [ofFlag_lengthField]
  cases (s.tag w).length <;> cases (s.word w).getMsbD 16 <;> decide

theorem tagOfWord_agrees (t : CodeTable) (w : Word) : (tagOfWord t w).agrees w := ⟨rfl, rfl⟩

theorem blank_agrees : Tag.blank.agrees 0#17 := by
  unfold Tag.agrees
  decide

theorem Tag.agrees.setAddressField {t : Tag} {w : Word} (h : t.agrees w) (a : Addr) :
    Tag.agrees { t with address := a } (setAddressField w a) :=
  ⟨(addressField_setAddressField w a).symm, by rw [lengthField_setAddressField]; exact h.2⟩

theorem resetTag_agrees (c : Config) (w : Nat) : (resetTag c w).agrees (resetWord c w) := by
  by_cases h : w < 31
  · rw [resetTag_low c h]
    exact tagOfWord_agrees _ _
  · rw [resetTag_high c (Nat.le_of_not_lt h), resetWord_high c (Nat.le_of_not_lt h)]
    exact blank_agrees

/-- The word of a loaded line has the address and the length of the line's tag
(70_reset_and_hazards.md R262). -/
theorem tagOfLine_agrees {t : CodeTable} {i : Nat} {line : TapeLine} {r : LineRecord} {w : Word}
    (h : lineWord t i line = .ok (r, w)) : (tagOfLine r).agrees w := by
  unfold lineWord at h
  split at h
  · cases h
  · split at h
    · rename_i r' _ w' hw
      cases h
      obtain ⟨c, -, rfl⟩ := Option.map_eq_some_iff.1 hw
      exact ⟨(addressField_layoutWord _ _ _ _).symm, by
        rw [lengthField_layoutWord, Length.ofFlag_flag]; rfl⟩
    · cases h

/-! ### Updates that keep the invariant -/

/-- The invariant reads memory, tags, configuration and `pc` alone. -/
theorem State.Inv.congr {s t : State} (h : s.Inv) (hsame : SameStore s t) (hpc : t.pc ≤ 1024) :
    t.Inv where
  memory := by rw [hsame.mem, hsame.config]; exact h.memory
  tags := by rw [hsame.tags, hsame.config]; exact h.tags
  pc := hpc
  tagsAgree := (tagsMatch_iff t).2 fun w hw => by
    rw [hsame.word_eq, hsame.tag_eq]
    exact (tagsMatch_iff s).1 h.tagsAgree w hw

/-- A word and a tag that agrees with it, written together, keep the invariant. -/
theorem State.Inv.setWord_setTag {s : State} (h : s.Inv) (a : Addr) {v : Word} {t : Tag}
    (ht : t.agrees v) : ((s.setWord a v).setTag a t).Inv where
  memory := memoryWf_setWord a v h.memory
  tags := tagsWf_setTag (s := s.setWord a v) a t h.tags
  pc := h.pc
  tagsAgree := (tagsMatch_iff _).2 fun w hw => by
    rw [tag_setTag, setTag_word, word_setWord]
    by_cases hwa : w = a.toNat
    · rw [if_pos hwa, if_pos hwa]
      exact ht
    · rw [if_neg hwa, if_neg hwa]
      exact (tagsMatch_iff s).1 h.tagsAgree w hw

/-- The store of U and T keeps the invariant (42_transfer.md R172). -/
theorem State.Inv.setAddr {s : State} (h : s.Inv) (n a : Addr) : (s.setAddr n a).Inv :=
  h.setWord_setTag n (((tagsMatch_iff s).1 h.tagsAgree n.toNat n.isLt).setAddressField a)

/-- A loaded line keeps the invariant (70_reset_and_hazards.md R262). -/
theorem State.Inv.storeLine {s : State} (h : s.Inv) (w : Nat) {r : LineRecord} {v : Word}
    (hr : (tagOfLine r).agrees v) : (storeLine s w r v).Inv :=
  h.setWord_setTag (BitVec.ofNat 10 w) hr

/-- The state after construction has the invariant, in every configuration (10_state.md R38). -/
theorem inv_built (c : Config) : { State.reset with config := c }.Inv where
  memory := rfl
  tags := rfl
  pc := show 31 ≤ 1024 by decide
  tagsAgree := (tagsMatch_iff _).2 fun w _ => resetTag_agrees c w

/-! ### The step -/

theorem step_inv {s t : State} (hs : s.Inv) (h : step s = .next t) : t.Inv := by
  have hpc := step_pc_le h hs.pc
  rcases step_store_cases h with hsame | ⟨-, a, hsame⟩
  · exact hs.congr hsame hpc
  · exact (hs.setAddr _ a).congr hsame hpc

/-! ### The tape load -/

section
variable {P : State → Prop}
  (hstore : ∀ s i w line r v, lineWord s.config.codeTable i line = .ok (r, v) → P s →
    P (storeLine s w r v))
  (hloaded : ∀ s, P s → P { s with programLoaded := true })
include hstore hloaded

/-- What every stored line and the end of a load keep, the load loop keeps
(70_reset_and_hazards.md R262, R263). -/
theorem loadLines_keeps {s : State} (lines : List TapeLine) (i w : Nat) (hs : P s) :
    P (loadLines lines i w s).2 := by
  induction lines generalizing i w s with
  | nil => exact hloaded s hs
  | cons line lines ih =>
    unfold loadLines
    split
    · exact ih _ _ hs
    · split
      · exact hs
      · split
        · exact hs
        · rename_i r v hline
          exact ih _ _ (hstore s i w line r v hline hs)

/-- What every stored line and the end of a load keep, a load keeps: it ends in the loop's state or in its own
(70_reset_and_hazards.md R260, R264). -/
theorem loadTape_keeps {s : State} (lines : List TapeLine) (hs : P s) : P (loadTape s lines).2 := by
  unfold loadTape
  split
  · unfold settleLoad
    split
    · exact hs
    · exact loadLines_keeps hstore hloaded lines _ _ hs
  all_goals exact hs

end

/-! ### `start()` -/

/-- An iteration of a Running machine is its `step()` (40_engine.md R124). -/
theorem iterate_eq_step {s : State} (hl : s.programLoaded = true) (hr : s.status = .running) :
    iterate s = step s := by
  have hsame : s.setStatus .running = s := by rw [State.setStatus, ← hr]
  simp only [step, admission, hl, hr, if_true, hsame]

section
variable {P : State → Prop} (hstep : ∀ s t, P s → step s = .next t → P t)
include hstep

/-- What every step keeps, the loop of `start()` keeps (40_engine.md R125). -/
theorem runWhileRunning_keeps {s t : State} {fuel : Nat} (hl : s.programLoaded = true) (hs : P s)
    (h : runWhileRunning fuel s = .next t) : P t := by
  induction fuel generalizing s with
  | zero => cases h; exact hs
  | succ fuel ih =>
    unfold runWhileRunning at h
    split at h
    · rename_i hr
      rw [iterate_eq_step hl hr] at h
      split at h
      · rename_i u hu
        exact ih ((step_programLoaded hu).trans hl) (hstep s u hs hu) h
      · cases h
      · cases h
    · cases h; exact hs

/-- What every step keeps, and becoming Running, `start()` keeps (40_engine.md R125, R126). -/
theorem hostStart_keeps (hrun : ∀ s : State, P s → P (s.setStatus .running)) {s t : State}
    {fuel : Nat} (hs : P s) (h : (hostStart fuel s).2 = .next t) : P t := by
  unfold hostStart at h
  rcases admission_cases s with ⟨hl, -, e⟩ | ⟨-, r, e⟩ <;> rw [e] at h
  · have hP := hrun s hs
    by_cases hm : s.stepMode = true
    · replace h : iterate (s.setStatus .running) = .next t := (if_pos hm).symm.trans h
      rw [iterate_eq_step (s := s.setStatus .running) hl rfl] at h
      exact hstep _ t hP h
    · replace h : runWhileRunning fuel (s.setStatus .running) = .next t := (if_neg hm).symm.trans h
      exact runWhileRunning_keeps hstep (s := s.setStatus .running) hl hP h
  · cases h; exact hs

end

/-! ### Every operation keeps the invariant and the configuration -/

/-- The invariant, in a core built with configuration `c`: what every operation of the host keeps. -/
def State.InvOf (c : Config) (s : State) : Prop := s.Inv ∧ s.config = c

/-- An update that writes neither memory, tags, configuration nor `pc` keeps the invariant. -/
theorem State.InvOf.congr {c : Config} {s t : State} (hs : s.InvOf c) (hsame : SameStore s t)
    (hpc : t.pc = s.pc) : t.InvOf c :=
  ⟨hs.1.congr hsame (hpc.trans_le hs.1.pc), hsame.config.trans hs.2⟩

theorem step_invOf {c : Config} (s t : State) (hs : s.InvOf c) (h : step s = .next t) : t.InvOf c :=
  ⟨step_inv hs.1 h, (step_config h).trans hs.2⟩

theorem loadTape_invOf {c : Config} {s : State} (lines : List TapeLine) (hs : s.InvOf c) :
    (loadTape s lines).2.InvOf c :=
  loadTape_keeps
    (fun _ _ w _ _ _ hline h => ⟨h.1.storeLine w (tagOfLine_agrees hline), h.2⟩)
    (fun _ h => h.congr ⟨rfl, rfl, rfl⟩ rfl) lines hs

theorem hostReset_invOf {c : Config} {s : State} (hs : s.InvOf c) : (hostReset s).InvOf c :=
  ⟨(inv_built s.config).congr ⟨rfl, rfl, rfl⟩ (inv_built s.config).pc, hs.2⟩

theorem reachable_invOf {c : Config} {s : State} (h : Reachable c s) : s.InvOf c := by
  induction h with
  | built => exact ⟨inv_built c, rfl⟩
  | step _ h ih => exact step_invOf _ _ ih h
  | start _ h ih =>
    exact hostStart_keeps step_invOf (fun _ hs => hs.congr ⟨rfl, rfl, rfl⟩ rfl) ih h
  | load lines _ ih => exact loadTape_invOf lines ih
  | reset _ ih => exact hostReset_invOf ih
  | setStepMode b _ ih => exact ih.congr ⟨rfl, rfl, rfl⟩ rfl
  | setDebugMode b _ ih => exact ih.congr ⟨rfl, rfl, rfl⟩ rfl

/-! ### O42, O43, O44 and O45 -/

/-- Settles O42: a step keeps memory and tags or stores one field, and both keep the invariant. -/
theorem stepKeepsTheInvariant : Obligations.StepKeepsTheInvariant := fun _ _ => step_inv

/-- Settles O43: what unlisted words and tags read as agrees. -/
theorem resetHasTheInvariant : Obligations.ResetHasTheInvariant := inv_built Config.standard

/-- Settles O44: a stored line's tag agrees with its word, and a load stores lines alone. -/
theorem loadTapeKeepsTheInvariant : Obligations.LoadTapeKeepsTheInvariant :=
  fun _ lines h => (loadTape_invOf lines ⟨h, rfl⟩).1

/-- Settles O45, by induction over the host's operations. -/
theorem reachableStatesHaveTheInvariant : Obligations.ReachableStatesHaveTheInvariant :=
  fun _ _ => reachable_invOf

end Sys2Proof.Machine
end

section
/-!
PROOFS. Construction (70_reset_and_hazards.md R251, R252, R254), word by word: what clearing and the
BootstrapLoader leave in each word and tag, and that the canonical form of that is nothing listed.
-/

namespace Sys2Proof.Machine

/-- A canonical store that reads everywhere as if nothing were listed lists nothing. -/
theorem storeWf_eq_nil {α : Type} [DecidableEq α] {d : Nat → α} {bound : Nat} {m : List (Nat × α)}
    (hm : storeWf d bound m = true) (h : ∀ a, storeRead d m a = d a) : m = [] := by
  simp only [storeWf, Bool.and_eq_true, List.all_eq_true, decide_eq_true_eq] at hm
  obtain ⟨hrising, hlisted⟩ := hm
  exact storeRising_ext d hrising rfl hlisted (by simp) h

/-- The two canonical forms of a state (log 1). -/
def State.canonical (s : State) : Prop :=
  Memory.wf s.config s.mem = true ∧ Tags.wf s.config s.tags = true

theorem State.canonical.setWord_setTag {s : State} (h : s.canonical) (a : Addr) (v : Word) (t : Tag) :
    ((s.setWord a v).setTag a t).canonical :=
  ⟨memoryWf_setWord a v h.1, tagsWf_setTag (s := s.setWord a v) a t h.2⟩

/-! ### Words written in address order -/

/-- A word of memory is named by its own address. -/
theorem toNat_ofNat_addr {k : Nat} (hk : k < 1024) : (BitVec.ofNat 10 k).toNat = k :=
  Nat.mod_eq_of_lt hk

/-- Entries `0 .. k-1` written before, and entry `k` now, are entries `0 .. k`. -/
theorem ite_eq_ite_lt {α : Type} (f : Nat → α) (x : α) (w k : Nat) :
    (if w = k then f k else if w < k then f w else x) = if w < k + 1 then f w else x := by
  rcases Nat.lt_trichotomy w k with h | h | h
  · rw [if_neg (by omega), if_pos h, if_pos (by omega)]
  · rw [if_pos h, if_pos (by omega), h]
  · rw [if_neg (by omega), if_neg (by omega), if_neg (by omega)]

/-! ### Clearing -/

theorem zeroWords_frame (k : Nat) (s : State) :
    zeroWords k s = { s with mem := (zeroWords k s).mem, tags := (zeroWords k s).tags } := by
  induction k with
  | zero => rfl
  | succ k ih => rw [zeroWords, ih]; rfl

theorem zeroWords_canonical (k : Nat) {s : State} (h : s.canonical) : (zeroWords k s).canonical := by
  induction k with
  | zero => exact h
  | succ k ih => exact ih.setWord_setTag _ _ _

theorem word_zeroWords {k : Nat} (hk : k ≤ 1024) (s : State) (w : Nat) :
    (zeroWords k s).word w = if w < k then 0#17 else s.word w := by
  induction k with
  | zero => rfl
  | succ k ih =>
    rw [zeroWords, setTag_word, word_setWord, toNat_ofNat_addr hk, ih (by omega)]
    exact ite_eq_ite_lt (fun _ => 0#17) _ w k

theorem tag_zeroWords {k : Nat} (hk : k ≤ 1024) (s : State) (w : Nat) :
    (zeroWords k s).tag w = if w < k then Tag.blank else s.tag w := by
  induction k with
  | zero => rfl
  | succ k ih =>
    rw [zeroWords, tag_setTag, setWord_tag, toNat_ofNat_addr hk, ih (by omega)]
    exact ite_eq_ite_lt (fun _ => Tag.blank) _ w k

/-! ### The BootstrapLoader -/

theorem bootstrapWords_frame (k : Nat) (s : State) :
    bootstrapWords k s =
      { s with mem := (bootstrapWords k s).mem, tags := (bootstrapWords k s).tags } := by
  induction k with
  | zero => rfl
  | succ k ih => rw [bootstrapWords, storeRom, ih]; rfl

theorem bootstrapWords_config (k : Nat) (s : State) : (bootstrapWords k s).config = s.config := by
  rw [bootstrapWords_frame]

theorem bootstrapWords_canonical (k : Nat) {s : State} (h : s.canonical) :
    (bootstrapWords k s).canonical := by
  induction k with
  | zero => exact h
  | succ k ih => exact ih.setWord_setTag _ _ _

theorem word_bootstrapWords {k : Nat} (hk : k ≤ 1024) (s : State) (w : Nat) :
    (bootstrapWords k s).word w =
      if w < k then patternWord (romPattern s.config w) else s.word w := by
  induction k with
  | zero => rfl
  | succ k ih =>
    rw [bootstrapWords, storeRom, setTag_word, word_setWord, toNat_ofNat_addr hk, ih (by omega)]
    exact ite_eq_ite_lt (fun w => patternWord (romPattern s.config w)) _ w k

theorem tag_bootstrapWords {k : Nat} (hk : k ≤ 1024) (s : State) (w : Nat) :
    (bootstrapWords k s).tag w =
      if w < k then tagOfWord s.config.codeTable (patternWord (romPattern s.config w))
      else s.tag w := by
  induction k with
  | zero => rfl
  | succ k ih =>
    rw [bootstrapWords, storeRom, tag_setTag, setWord_tag, toNat_ofNat_addr hk, ih (by omega),
      bootstrapWords_config]
    exact ite_eq_ite_lt
      (fun w => tagOfWord s.config.codeTable (patternWord (romPattern s.config w))) _ w k

/-! ### Construction -/

theorem construct_frame (c : Config) :
    construct c = { State.reset with
      config := c, mem := (construct c).mem, tags := (construct c).tags } := by
  rw [construct, bootstrapLoad, bootstrapWords_frame, blankCore, zeroWords_frame]
  rfl

theorem construct_canonical (c : Config) : (construct c).canonical :=
  bootstrapWords_canonical _ (zeroWords_canonical _ ⟨rfl, rfl⟩)

theorem blankCore_config (c : Config) : (blankCore c).config = c := by
  rw [blankCore, zeroWords_frame]

/-- Every word of a new core is its reset contents (10_state.md R38). -/
theorem word_construct (c : Config) (w : Nat) : (construct c).word w = resetWord c w := by
  rw [construct, bootstrapLoad, word_bootstrapWords (by decide), blankCore_config]
  by_cases h : w < Config.romWords
  · rw [if_pos h, resetWord_low c h]
  · rw [if_neg h, blankCore, word_zeroWords (by decide), if_neg h]
    rfl

/-- Every tag of a new core is its reset contents (70_reset_and_hazards.md R254). -/
theorem tag_construct (c : Config) (w : Nat) : (construct c).tag w = resetTag c w := by
  rw [construct, bootstrapLoad, tag_bootstrapWords (by decide), blankCore_config]
  by_cases h : w < Config.romWords
  · rw [if_pos h, resetTag_low c h, resetWord_low c h]
  · rw [if_neg h, blankCore, tag_zeroWords (by decide), if_neg h]
    rfl

theorem construct_config (c : Config) : (construct c).config = c := by rw [construct_frame]

/-- Construction, run step by step, lists nothing: it ends in the reset state (10_state.md R38). -/
theorem construct_eq_reset (c : Config) : construct c = { State.reset with config := c } := by
  obtain ⟨hmem, htags⟩ := construct_canonical c
  rw [construct_config] at hmem htags
  have hword : ∀ w, storeRead (resetWord c) (construct c).mem w = resetWord c w := fun w => by
    rw [← word_construct c w, State.word, construct_config]
  have htag : ∀ w, storeRead (resetTag c) (construct c).tags w = resetTag c w := fun w => by
    rw [← tag_construct c w, State.tag, construct_config]
  rw [construct_frame, storeWf_eq_nil hmem hword, storeWf_eq_nil htags htag]
  rfl

/-- A tag of the bootstrap image, field by field (70_reset_and_hazards.md R254). -/
theorem tagOfWord_eq (t : CodeTable) (w : Word) :
    tagOfWord t w =
      { letter := firstSymbol t (opcodeField w), hasAddress := true, address := addressField w,
        length := if w.getMsbD 16 then .long else .short } := by
  rw [← ofFlag_lengthField]
  rfl

theorem bootRom_lawful : bootRomLawful bootRom = true := by decide

/-- Settles O48: construction ends in the reset state, whose words and tags are the reset contents. -/
theorem constructionLeavesTheResetState : Obligations.ConstructionLeavesTheResetState := by
  refine ⟨bootRom_lawful, rfl, fun c => ⟨construct_eq_reset c, ?_⟩⟩
  simp only [State.opc, State.addr, word_construct, tag_construct]
  rw [construct_eq_reset]
  refine ⟨rfl, rfl, rfl, rfl, rfl, rfl, rfl, rfl, rfl, rfl, fun w hw => ⟨resetWord_low c hw, ?_⟩,
    fun w hw => ⟨resetWord_high c hw, resetTag_high c hw⟩⟩
  rw [resetTag_low c hw, tagOfWord_eq]

end Sys2Proof.Machine
end

section
/-!
PROOFS. What memory keeps (20_memory.md): the laws of a BitMemory, the word accessors as bit reads, and what a step
may write of memory.
-/

namespace Sys2Proof.Machine

/-! ### One BitMemory -/

section
variable {capacity : Nat} (m : BitVec capacity) {i : Nat}

theorem test_of_lt (h : i < capacity) : BitMemory.test m i = .ok (m.getMsbD i) := if_pos h

theorem test_of_ge (h : capacity ≤ i) : BitMemory.test m i = .error (.outOfBounds .bit i) :=
  if_neg (Nat.not_lt.2 h)

theorem test_put_same (b : Bool) (h : i < capacity) :
    BitMemory.test (BitMemory.put m i b) i = .ok b := by
  rw [test_of_lt _ h, getMsbD_put m b i h, if_pos rfl]

/-- Out of range both tests fault alike, in range the other bit is kept (20_memory.md R50). -/
theorem test_put_other (b : Bool) (h : i < capacity) {j : Nat} (hj : j ≠ i) :
    BitMemory.test (BitMemory.put m i b) j = BitMemory.test m j := by
  rw [BitMemory.test, getMsbD_put m b j h, if_neg hj, BitMemory.test]

end

/-- Settles O8: the bit put is the one bit that a test sees changed. -/
theorem bitMemoryKeepsItsLaws : Obligations.BitMemoryKeepsItsLaws := by
  refine fun capacity => ⟨fun i h => ?_, fun m i => ⟨fun h => ?_, fun h => ?_⟩⟩
  · rw [test_of_lt _ h, BitMemory.make, BitVec.getMsbD_zero]
  · exact ⟨BitMemory.put m i true, BitMemory.put m i false, if_pos h, if_pos h,
      test_put_same m true h, test_put_same m false h,
      fun j hj => ⟨test_put_other m true h hj, test_put_other m false h hj⟩⟩
  · exact ⟨.bit, i, test_of_ge m h, if_neg (Nat.not_lt.2 h), if_neg (Nat.not_lt.2 h)⟩

/-! ### The fields of a word as bit reads -/

/-- `MemRead` bit by bit (00_scope.md R9). -/
theorem getMsbD_bits (s : State) (a : Nat) {n k : Nat} (h : k < n) :
    (s.bits a n).getMsbD k = s.bit (a + k) := by
  induction n with
  | zero => omega
  | succ n ih =>
    rw [State.bits, BitVec.getMsbD_concat]
    rcases Nat.lt_succ_iff_lt_or_eq.1 h with hk | rfl
    · rw [if_pos hk, ih hk]
    · simp

/-- Bit `k` of word `w` is logical bit `17·w + k` (20_memory.md R51). -/
theorem bit_of_word (s : State) (w : Nat) {k : Nat} (h : k < 17) :
    s.bit (17 * w + k) = (s.word w).getMsbD k := by
  rw [State.bit, Config.wordBits, show (17 * w + k) / 17 = w by omega,
    show (17 * w + k) % 17 = k by omega]

/-- A read inside a word of memory is the value with that word's bits, and is in bounds. -/
theorem memRead_inWord (s : State) {w o n : Nat} {v : BitVec n} (hw : w < 1024) (ho : o + n ≤ 17)
    (hv : ∀ k, k < n → v.getMsbD k = (s.word w).getMsbD (o + k)) :
    memRead s (17 * w + o) n = .ok v := by
  have hrange : ¬Config.memBits < 17 * w + o + n := by
    simp only [Config.memBits, Config.memWords, Config.wordBits]
    omega
  have hbits : s.bits (17 * w + o) n = v := BitVec.eq_of_getMsbD_eq fun k hk => by
    rw [getMsbD_bits s _ hk, Nat.add_assoc, bit_of_word s w (by omega), hv k hk]
  rw [memRead, if_neg hrange, hbits]

/-- The opcode is indices 0..4 of its word (30_encoding.md R71). -/
theorem getMsbD_opcodeField (w : Word) {k : Nat} (h : k < 5) :
    (opcodeField w).getMsbD k = w.getMsbD k := by
  conv => rhs; rw [← layoutWord_fields w]
  rw [getMsbD_layoutWord, if_neg (by omega), if_neg (by omega), if_neg (by omega)]

/-- The address field is indices 6..15 of its word (30_encoding.md R71). -/
theorem getMsbD_addressField (w : Word) {k : Nat} (h : k < 10) :
    (addressField w).getMsbD k = w.getMsbD (6 + k) := by
  conv => rhs; rw [← layoutWord_fields w]
  rw [getMsbD_layoutWord, if_neg (by omega), if_pos (by omega), Nat.add_sub_cancel_left]

/-- Settles O9: each accessor has the bits that the read inside its word collects. -/
theorem wordAccessorsAreBitReads : Obligations.WordAccessorsAreBitReads := by
  refine fun s w hw => ⟨?_, ?_, ?_⟩
  · exact memRead_inWord s (o := 0) hw (by decide) fun k hk => by
      rw [State.opc, getMsbD_opcodeField _ hk, Nat.zero_add]
  · exact memRead_inWord s hw (by decide) fun k hk => getMsbD_addressField _ hk
  · exact memRead_inWord s (o := 0) hw (by decide) fun k _ => by rw [Nat.zero_add]

/-! ### What a step may write of memory -/

theorem SameStore.bit_eq {s t : State} (h : SameStore s t) (i : Nat) : t.bit i = s.bit i := by
  rw [State.bit, State.bit, h.word_eq]

/-- The symbol a word dispatches on is its decoded order's (40_engine.md R116). -/
theorem symbolAt_eq_of_decode {s : State} {w : Nat} {i : Instr}
    (h : decodeWith s.config.codeTable (s.word w) = i) : s.symbolAt w = i.symbol := by
  rw [← h, symbol_decodeWith]
  rfl

/-- The word at `pc` stores: it is U, or T away from word 31 in `store_then_clear` mode. -/
theorem symbolAt_of_storesTo {s : State} {n : Addr}
    (h : storesTo (decodeWith s.config.codeTable (s.word s.pc)) s n) :
    s.symbolAt s.pc = some .U ∨
      (s.symbolAt s.pc = some .T ∧ s.pc ≠ 31 ∧ s.config.tMode = .storeThenClear) := by
  rcases h with ⟨l, hU⟩ | ⟨⟨l, hT⟩, hpc, hmode⟩
  · exact .inl (symbolAt_eq_of_decode hU)
  · exact .inr ⟨symbolAt_eq_of_decode hT, hpc, hmode⟩

/-- Settles O12: a step keeps memory or is a store, which writes one address field. -/
theorem onlyStoresChangeMemory : Obligations.OnlyStoresChangeMemory := by
  intro s t i h hne
  rcases step_store_cases h with hsame | ⟨hst, a, hsame⟩
  · exact absurd (hsame.bit_eq i) hne
  · rw [hsame.bit_eq, bit_setAddr] at hne
    have hfield : inAddressField (s.addr s.pc) i := by
      by_contra hout
      exact hne (if_neg hout)
    exact ⟨hfield, symbolAt_of_storesTo hst⟩

/-! ### Protected words -/

/-- A store that `ROM_WRITE = fault` admits keeps the words of the bootstrap image (20_memory.md R60). -/
theorem word_setAddr_protected {s : State} {n : Addr} (a : Addr) {w : Nat}
    (hrom : s.config.romWrite = .fault) (hw : w < 31)
    (hn : ¬(n.toNat < 31 ∧ s.config.romWrite = .fault)) : (s.setAddr n a).word w = s.word w := by
  have hwn : w ≠ n.toNat := fun h => hn ⟨h ▸ hw, hrom⟩
  rw [word_setAddr, if_neg hwn]

/-- U and the storing T check the protection before they write (42_transfer.md R172). -/
theorem ExecEffect.word_protected {i : Instr} {s t : State} (h : ExecEffect i s t) {w : Nat}
    (hrom : s.config.romWrite = .fault) (hw : w < 31) : t.word w = s.word w := by
  cases h with
  | storeClear n l _ _ _ _ hn =>
    rw [completed_word, clearAcc_word, word_setAddr_protected _ hrom hw hn]
  | store n l _ _ hn => rw [completed_word, word_setAddr_protected _ hrom hw hn]
  | _ => rfl

/-- Settles O13: the order of the step, run where fetch left, keeps the protected words. -/
theorem protectedRomNeverChanges : Obligations.ProtectedRomNeverChanges := by
  intro s t w hrom hw h
  rcases step_cases h with ⟨-, rfl⟩ | ⟨-, -, -, rfl⟩ | ⟨-, -, -, he⟩
  · rfl
  · rfl
  · exact he.word_protected hrom hw

/-! ### A store and the next fetch -/

/-- U stores the Accumulator where it fits and the word is not protected (42_transfer.md R171, R172). -/
theorem exec_orderU_store {s : State} {n : Addr} (l : Length) (hacc : s.acc.toNat < 2 ^ 10)
    (hn : ¬(n.toNat < 31 ∧ s.config.romWrite = .fault)) :
    exec (.orderU n l) s = .next (completed (s.setAddr n (BitVec.ofNat 10 s.acc.toNat))) := by
  have hstore : storeAcc s n = .ok (s.setAddr n (BitVec.ofNat 10 s.acc.toNat)) := by
    rcases storeAcc_cases s n with ⟨hbig, -⟩ | ⟨-, hlow, hrom, -⟩ | ⟨-, -, e⟩
    · omega
    · exact absurd ⟨hlow, hrom⟩ hn
    · exact e
  calc exec (.orderU n l) s
    _ = finish s ((storeAcc s n).map completed) := rfl
    _ = .next (completed (s.setAddr n (BitVec.ofNat 10 s.acc.toNat))) := by rw [hstore]; rfl

theorem fetch_ot_at (t : State) (w : Nat) : (fetch { t with pc := w }).ot = t.word w := rfl

/-- Settles O14: the next fetch of word n reads the word that U left there, and U leaves OT alone. -/
theorem storedFieldIsFetchedNext : Obligations.StoredFieldIsFetchedNext := by
  intro n l s hacc hn
  refine ⟨_, exec_orderU_store l hacc hn, rfl, _, rfl, ?_⟩
  rw [fetch_ot_at, completed_word, word_setAddr, if_pos rfl, opcodeField_setAddressField,
    addressField_setAddressField, lengthField_setAddressField]
  exact ⟨rfl, Nat.mod_eq_of_lt hacc, rfl⟩

end Sys2Proof.Machine
end

section
/-!
PROOFS. The codec (30_encoding.md): looking a symbol and a code up in a table, decoding and encoding under
every table, and the tape lines.
-/

namespace Sys2Proof

/-! ### Looking up a table -/

variable {t : CodeTable} {s : Symbol} {c : Code}

theorem mem_candidates : s ∈ candidates t c ↔ (s, c) ∈ t := by
  simp [candidates]

theorem mem_of_codeOf (h : codeOf t s = some c) : (s, c) ∈ t := by
  obtain ⟨⟨r, c'⟩, hfind, rfl⟩ := Option.map_eq_some_iff.1 h
  obtain rfl : r = s := by simpa using List.find?_some hfind
  exact List.mem_of_find?_eq_some hfind

/-- A symbol listed once has the code it is listed with. -/
theorem codeOf_of_mem (hn : (t.map Prod.fst).Nodup) (h : (s, c) ∈ t) : codeOf t s = some c := by
  have hfound : (t.find? fun e => e.1 == s).isSome := List.find?_isSome.2 ⟨_, h, by simp⟩
  obtain ⟨c', hc'⟩ : ∃ c', codeOf t s = some c' :=
    Option.isSome_iff_exists.1 ((Option.isSome_map ..).trans hfound)
  have hsame := List.inj_on_of_nodup_map hn (mem_of_codeOf hc') h rfl
  rw [hc', (Prod.mk.inj hsame).2]

/-- In a table that lists no symbol twice the candidates of a code are the symbols with that code
(30_encoding.md R79). -/
theorem mem_candidates_iff_codeOf (hn : (t.map Prod.fst).Nodup) :
    s ∈ candidates t c ↔ codeOf t s = some c :=
  mem_candidates.trans ⟨codeOf_of_mem hn, mem_of_codeOf⟩

theorem candidates_nodup (hn : (t.map Prod.fst).Nodup) : (candidates t c).Nodup :=
  hn.sublist (List.filter_sublist.map _)

theorem decodeOpcode_of_candidates {r : Symbol} {rs : List Symbol} (h : candidates t c = r :: rs) :
    decodeOpcode t c = some (r :: rs) := by
  rw [decodeOpcode, h]

/-- The first candidate is the head of the candidates (30_encoding.md R78). -/
theorem firstSymbol_eq_head? (t : CodeTable) (c : Code) : firstSymbol t c = (candidates t c).head? := by
  cases h : candidates t c <;> simp [firstSymbol, decodeOpcode, h]

/-- The first candidate of a code encodes to it, where no symbol is listed twice (30_encoding.md R79). -/
theorem codeOf_firstSymbol (hn : (t.map Prod.fst).Nodup) (h : firstSymbol t c = some s) :
    codeOf t s = some c := by
  rw [firstSymbol_eq_head?] at h
  exact (mem_candidates_iff_codeOf hn).1 (List.mem_of_mem_head? h)

/-- The code of a symbol has a first candidate. -/
theorem exists_firstSymbol (h : codeOf t s = some c) : ∃ r, firstSymbol t c = some r := by
  have hne : candidates t c ≠ [] := List.ne_nil_of_mem (mem_candidates.2 (mem_of_codeOf h))
  exact ⟨_, (firstSymbol_eq_head? t c).trans (List.head?_eq_some_head hne)⟩

theorem firstCandidate_of_code {r : Symbol} (hs : codeOf t s = some c) (hr : firstSymbol t c = some r) :
    firstCandidate t s = r := by
  simp [firstCandidate, hs, hr]

/-! ### Orders, by their symbols -/

/-- An order is a symbol's, or it is the order of a code without a symbol. -/
theorem Instr.exists_ofSymbol_or_unknownCode (i : Instr) :
    (∃ s n l, i = .ofSymbol s n l) ∨ ∃ c n l, i = .unknownCode c n l := by
  cases hs : i.symbol with
  | some s => exact .inl ⟨s, _, _, Instr.eq_ofSymbol hs⟩
  | none =>
    cases i with
    | unknownCode c n l => exact .inr ⟨c, n, l, rfl⟩
    | _ => cases hs

@[simp] theorem Instr.code_ofSymbol (t : CodeTable) (s : Symbol) (n : Addr) (l : Length) :
    (Instr.ofSymbol s n l).code t = codeOf t s := by cases s <;> rfl

@[simp] theorem Instr.code_unknownCode (t : CodeTable) (c : Code) (n : Addr) (l : Length) :
    (Instr.unknownCode c n l).code t = some c := rfl

theorem Instr.wellFormedIn_ofSymbol (t : CodeTable) (s : Symbol) (n : Addr) (l : Length) :
    (Instr.ofSymbol s n l).wellFormedIn t = s.isFirst t := by cases s <;> rfl

/-- A symbol's order is well formed when the symbol comes first for its code. -/
theorem Instr.wellFormedIn_ofSymbol_iff {n : Addr} {l : Length} :
    (Instr.ofSymbol s n l).wellFormedIn t = true ↔
      ∃ c, codeOf t s = some c ∧ firstSymbol t c = some s := by
  rw [wellFormedIn_ofSymbol, Symbol.isFirst, beq_iff_eq, Option.bind_eq_some_iff]

/-- An unknown order is well formed when its code has no symbol. -/
theorem Instr.wellFormedIn_unknownCode_iff {n : Addr} {l : Length} :
    (Instr.unknownCode c n l).wellFormedIn t = true ↔ firstSymbol t c = none := by
  rw [wellFormedIn, Code.isUnknown, Option.isNone_iff_eq_none]

/-! ### Decoding and encoding -/

theorem decodeWith_of_some {w : Word} (h : firstSymbol t (opcodeField w) = some s) :
    decodeWith t w = .ofSymbol s (addressField w) (.ofFlag (lengthField w)) := by
  rw [decodeWith, h]

theorem decodeWith_of_none {w : Word} (h : firstSymbol t (opcodeField w) = none) :
    decodeWith t w = .unknownCode (opcodeField w) (addressField w) (.ofFlag (lengthField w)) := by
  rw [decodeWith, h]

theorem decodeWith_layoutWord_of_some (p : BitVec 1) (n : Addr) (l : Length)
    (h : firstSymbol t c = some s) : decodeWith t (layoutWord c p n l.flag) = .ofSymbol s n l := by
  rw [decodeWith_of_some (by rwa [opcodeField_layoutWord]), addressField_layoutWord,
    lengthField_layoutWord, Length.ofFlag_flag]

theorem decodeWith_layoutWord_of_none (p : BitVec 1) (n : Addr) (l : Length)
    (h : firstSymbol t c = none) :
    decodeWith t (layoutWord c p n l.flag) = .unknownCode c n l := by
  rw [decodeWith_of_none (by rwa [opcodeField_layoutWord]), opcodeField_layoutWord,
    addressField_layoutWord, lengthField_layoutWord, Length.ofFlag_flag]

theorem encodeWith_of_code {i : Instr} (h : i.code t = some c) :
    encodeWith t i = some (layoutWord c 1#1 i.operand i.length.flag) := by
  rw [encodeWith, h, Option.map_some]

/-- Settles O1: the word laid out from an order's code has that code's first candidate, or none, to decode to. -/
theorem decodeReadsBackEveryEncoding : Obligations.DecodeReadsBackEveryEncoding := by
  intro t i hi
  rcases i.exists_ofSymbol_or_unknownCode with ⟨s, n, l, rfl⟩ | ⟨c, n, l, rfl⟩
  · obtain ⟨c, hc, hfirst⟩ := Instr.wellFormedIn_ofSymbol_iff.1 hi
    refine ⟨_, encodeWith_of_code ((Instr.code_ofSymbol t s n l).trans hc), spareField_layoutWord .., ?_⟩
    rw [Instr.operand_ofSymbol, Instr.length_ofSymbol]
    exact decodeWith_layoutWord_of_some _ n l hfirst
  · have hnone := Instr.wellFormedIn_unknownCode_iff.1 hi
    exact ⟨_, encodeWith_of_code rfl, spareField_layoutWord .., decodeWith_layoutWord_of_none _ n l hnone⟩

/-- A decoded order is well formed and its code is the word's opcode, where no symbol is listed twice
(30_encoding.md R79, R80). -/
theorem decodeWith_wellFormedIn_and_code (hn : (t.map Prod.fst).Nodup) (w : Word) :
    (decodeWith t w).wellFormedIn t = true ∧ (decodeWith t w).code t = some (opcodeField w) := by
  cases h : firstSymbol t (opcodeField w) with
  | some s =>
    have hcode := codeOf_firstSymbol hn h
    rw [decodeWith_of_some h, Instr.code_ofSymbol]
    exact ⟨Instr.wellFormedIn_ofSymbol_iff.2 ⟨_, hcode, h⟩, hcode⟩
  | none =>
    rw [decodeWith_of_none h]
    exact ⟨Instr.wellFormedIn_unknownCode_iff.2 h, rfl⟩

/-- Bit W[11] set is the spare bit set (30_encoding.md R71, R72). -/
theorem layoutWord_spare_set (w : Word) :
    layoutWord (opcodeField w) 1#1 (addressField w) (lengthField w) = w ||| 0x00800#17 := by
  have hopcode : opcodeField (w ||| 0x00800#17) = opcodeField w := by
    simp [opcodeField, BitVec.extractLsb'_or]
  have hspare : spareField (w ||| 0x00800#17) = 1#1 := by
    have hone : ∀ b : BitVec 1, b ||| 1#1 = 1#1 := by decide
    simp [spareField, BitVec.extractLsb'_or, hone]
  have haddress : addressField (w ||| 0x00800#17) = addressField w := by
    simp [addressField, BitVec.extractLsb'_or]
  have hlength : lengthField (w ||| 0x00800#17) = lengthField w := by
    simp [lengthField, BitVec.extractLsb'_or]
  rw [← layoutWord_fields (w ||| 0x00800#17), hopcode, hspare, haddress, hlength]

theorem codeTable_nodup : (codeTable.map Prod.fst).Nodup := by decide

/-- Settles O2: decode keeps every field but the spare bit, and the opcode is the decoded order's code. -/
theorem encodeReadsBackEveryWord : Obligations.EncodeReadsBackEveryWord := by
  intro w
  obtain ⟨hwf, hcode⟩ := decodeWith_wellFormedIn_and_code codeTable_nodup w
  refine ⟨hwf, (encodeWith_of_code hcode).trans ?_⟩
  rw [operand_decodeWith, length_decodeWith, Length.flag_ofFlag, layoutWord_spare_set]

/-- Settles O3, by running the decoder on the twelve words. -/
theorem specWordsDecodeToTheirOrders : Obligations.SpecWordsDecodeToTheirOrders := by
  unfold Obligations.SpecWordsDecodeToTheirOrders
  decide

/-- Settles O4: where no symbol is listed twice, candidates and codes are one relation. -/
theorem symbolsAndCodesRoundTrip : Obligations.SymbolsAndCodesRoundTrip :=
  ⟨codeTable_nodup, fun _ hn =>
    ⟨fun _ _ h => (mem_candidates_iff_codeOf hn).2 h, fun _ _ h => codeOf_firstSymbol hn h⟩⟩

/-! ### Lawful tables -/

/-- `CODE_TABLE` has what the source fixes of it (30_encoding.md R76). -/
theorem codeTable_lawful : codeTable.Lawful where
  listsEverySymbol s := by cases s <;> rfl
  listsNoneTwice := codeTable_nodup
  bangSharesW := rfl
  noOtherCollision r s := by cases r <;> cases s <;> decide

/-- Under a lawful table two symbols with one code are the same symbol, or they are W and `!`. -/
theorem CodeTable.Lawful.codeOf_eq_iff (h : t.Lawful) {r : Symbol} :
    codeOf t r = codeOf t s ↔ r = s ∨ (r = .W ∧ s = .bang) ∨ (r = .bang ∧ s = .W) := by
  constructor
  · intro hrs
    exact or_iff_not_imp_left.2 (h.noOtherCollision r s hrs)
  · rintro (rfl | ⟨rfl, rfl⟩ | ⟨rfl, rfl⟩)
    · rfl
    · exact h.bangSharesW.symm
    · exact h.bangSharesW

/-- The candidates of a symbol's code are a list of these symbols, in some order, when these are the symbols
with that code. -/
theorem candidates_perm (hn : (t.map Prod.fst).Nodup) {l : List Symbol} (hl : l.Nodup)
    (h : ∀ r, codeOf t r = some c ↔ r ∈ l) : (candidates t c).Perm l :=
  (List.perm_ext_iff_of_nodup (candidates_nodup hn) hl).2 fun r =>
    (mem_candidates_iff_codeOf hn).trans (h r)

/-- Settles O5: the candidates of a code are the symbols with that code, which a lawful table fixes. -/
theorem lawfulTablesShareOneCode : Obligations.LawfulTablesShareOneCode := by
  refine ⟨codeTable_lawful, fun t s c ht hc => ?_⟩
  have hsame : ∀ r, codeOf t r = some c ↔ r = s ∨ (r = .W ∧ s = .bang) ∨ (r = .bang ∧ s = .W) :=
    fun r => hc ▸ ht.codeOf_eq_iff
  by_cases hs : s = .W ∨ s = .bang
  · rw [if_pos hs]
    have hperm : (candidates t c).Perm [.W, .bang] :=
      candidates_perm ht.listsNoneTwice (by decide) fun r => by
        rw [hsame]
        rcases hs with rfl | rfl <;> simp [or_comm]
    rcases List.perm_pair.1 hperm with h | h
    · exact .inl (decodeOpcode_of_candidates h)
    · exact .inr (decodeOpcode_of_candidates h)
  · rw [if_neg hs]
    obtain ⟨hW, hbang⟩ := not_or.1 hs
    have hperm : (candidates t c).Perm [s] :=
      candidates_perm ht.listsNoneTwice (List.nodup_singleton s) fun r => by
        rw [hsame]
        simp [hW, hbang]
    exact decodeOpcode_of_candidates (List.perm_singleton.1 hperm)

/-! ### Tape lines -/

/-- Two strings laid side by side, by value (00_scope.md R8). -/
theorem toNat_append_eq_add {n m : Nat} (x : BitVec n) (y : BitVec m) :
    (x ++ y).toNat = 2 ^ m * x.toNat + y.toNat := by
  rw [BitVec.toNat_append, ← Nat.shiftLeft_add_eq_or_of_lt y.isLt, Nat.shiftLeft_eq, Nat.mul_comm]

/-- The value of a word laid out from four fields (30_encoding.md R84). -/
theorem toNat_layoutWord (c : Code) (p : BitVec 1) (n : Addr) (l : BitVec 1) :
    (layoutWord c p n l).toNat = 4096 * c.toNat + 2048 * p.toNat + 2 * n.toNat + l.toNat := by
  simp only [layoutWord, toNat_append_eq_add]
  omega

/-- No two symbols are printed alike (30_encoding.md R75). -/
theorem Symbol.char_injective : Function.Injective Symbol.char := by
  have hread : ∀ s : Symbol, symbolOfChar codeTable s.char = some s := fun s => by cases s <;> decide
  intro r s h
  have hrs := (hread r).symm.trans ((congrArg (symbolOfChar codeTable) h).trans (hread s))
  exact Option.some.inj hrs

theorem CodeTable.Lawful.exists_code (h : t.Lawful) (s : Symbol) : ∃ c, codeOf t s = some c :=
  Option.isSome_iff_exists.1 (h.listsEverySymbol s)

/-- Under a lawful table every symbol is read from its own character and from no other (30_encoding.md R77). -/
theorem CodeTable.Lawful.symbolOfChar_eq_some_iff (h : t.Lawful) {ch : Char} :
    symbolOfChar t ch = some s ↔ s.char = ch := by
  have hread : ∀ {r}, symbolOfChar t ch = some r → r.char = ch := fun hr => by
    simpa using List.find?_some hr
  refine ⟨hread, ?_⟩
  rintro rfl
  obtain ⟨c, hc⟩ := h.exists_code s
  have hlisted : s ∈ t.map Prod.fst := List.mem_map_of_mem (mem_of_codeOf hc)
  obtain ⟨r, hr⟩ : ∃ r, symbolOfChar t s.char = some r :=
    Option.isSome_iff_exists.1 (List.find?_isSome.2 ⟨s, hlisted, by simp⟩)
  rw [hr, Symbol.char_injective (hread hr)]

/-- Digits and a rest that starts with none are told apart (30_encoding.md R84). -/
theorem span_digits {ds rest : List Char} (hds : ∀ d ∈ ds, isDigit d = true)
    (hrest : ∀ d, rest.head? = some d → isDigit d = false) :
    (ds ++ rest).takeWhile isDigit = ds ∧ (ds ++ rest).dropWhile isDigit = rest := by
  rw [List.takeWhile_append_of_pos hds, List.dropWhile_append_of_pos hds]
  cases rest with
  | nil => simp
  | cons d rest => simp [hrest d rfl]

theorem parseInstructionLine_of_digits {ch : Char} {ds rest : List Char}
    (hs : symbolOfChar t ch = some s) (hds : ∀ d ∈ ds, isDigit d = true)
    (hrest : ∀ d, rest.head? = some d → isDigit d = false) :
    parseInstructionLine t (ch :: (ds ++ rest)) =
      if 1023 < decimal ds then .error (.malformed .addressAbove1023)
      else .ok
        { symbol := s
          hasAddress := decide (ds ≠ [])
          address := BitVec.ofNat 10 (decimal ds)
          length := if rest.head? = some 'D' then .long else .short } := by
  obtain ⟨htake, hdrop⟩ := span_digits hds hrest
  have hempty : (!ds.isEmpty) = decide (ds ≠ []) := by cases ds <;> simp
  simp only [parseInstructionLine, hs, htake, hdrop, hempty, gt_iff_lt]

theorem parseInstructionLine_of_no_symbol {ch : Char} (rest : TapeLine) (h : symbolOfChar t ch = none) :
    parseInstructionLine t (ch :: rest) = .error (.unknownSymbol ch) := by
  rw [parseInstructionLine, h]

theorem encodeWord_of_code {r : LineRecord} (h : codeOf t r.symbol = some c) :
    encodeWord t r = some (layoutWord c 1#1 r.address r.length.flag) := by
  rw [encodeWord, h, Option.map_some]

/-- Settles O6: the parser splits a line at its last digit, and the word is the value of its fields. -/
theorem tapeLinesParseAndEncode : Obligations.TapeLinesParseAndEncode := by
  refine fun t ht => ⟨rfl, fun _ rest h => parseInstructionLine_of_no_symbol rest h,
    fun _ _ _ _ hs hds hrest => parseInstructionLine_of_digits hs hds hrest,
    fun _ _ => ht.symbolOfChar_eq_some_iff, fun r => ?_⟩
  obtain ⟨c, hc⟩ := ht.exists_code r.symbol
  refine ⟨c, hc, _, encodeWord_of_code hc, ?_⟩
  rw [toNat_layoutWord]
  cases r.length <;> rfl

/-- Under `CODE_TABLE` the first candidate of a symbol's code is the symbol itself, but W for `!`
(30_encoding.md R78). -/
theorem firstCandidate_codeTable (s : Symbol) :
    firstCandidate codeTable s = if s = .bang then .W else s := by cases s <;> decide

/-- A line's word decodes to the first candidate of its symbol's code (30_encoding.md R78, R84). -/
theorem decodeWith_encodeWord (r : LineRecord) (h : codeOf t r.symbol = some c) :
    ∃ w, encodeWord t r = some w ∧
      decodeWith t w = .ofSymbol (firstCandidate t r.symbol) r.address r.length := by
  obtain ⟨f, hf⟩ := exists_firstSymbol h
  refine ⟨_, encodeWord_of_code h, ?_⟩
  rw [firstCandidate_of_code h hf]
  exact decodeWith_layoutWord_of_some _ _ _ hf

/-- Settles O7: a lawful table has a code for the symbol of every line. -/
theorem loadedLinesDecodeToTheirOrders : Obligations.LoadedLinesDecodeToTheirOrders := by
  refine ⟨fun t r ht => ?_, firstCandidate_codeTable⟩
  obtain ⟨c, hc⟩ := ht.exists_code r.symbol
  exact decodeWith_encodeWord r hc

end Sys2Proof
end

section
/-!
PROOFS. Codes without a symbol and the shared code, at dispatch (30_encoding.md R78; 40_engine.md R120); and that
no word without a symbol arises: no store writes an opcode, and a line's opcode is its symbol's.
-/

namespace Sys2Proof.Machine

/-! ### The shared code and the code without a symbol -/

/-- Settles O36: a decoded order is well formed, and under `CODE_TABLE` `!` is not. -/
theorem sharedCodeOrderFailsAsFirstCandidate : Obligations.SharedCodeOrderFailsAsFirstCandidate := by
  refine ⟨fun _ _ _ => rfl, firstCandidate_codeTable .bang, fun w n l h => ?_⟩
  have hwf : (decode w).wellFormedIn codeTable = true :=
    (decodeWith_wellFormedIn_and_code codeTable_nodup w).1
  have hbang : (Instr.orderBang n l).wellFormedIn codeTable = false := rfl
  rw [h, hbang] at hwf
  cases hwf

/-- Under `CODE_TABLE` every code but `10100` has a symbol (30_encoding.md R75). -/
theorem firstSymbol_codeTable_eq_none_iff (c : Code) :
    firstSymbol codeTable c = none ↔ c = 0b10100#5 := by
  revert c
  decide

/-- The decoded order has no symbol exactly when the opcode has none. -/
theorem exists_decodeWith_eq_unknownCode_iff (t : CodeTable) (w : Word) :
    (∃ c n l, decodeWith t w = .unknownCode c n l) ↔ firstSymbol t (opcodeField w) = none := by
  constructor
  · rintro ⟨c, n, l, h⟩
    rw [← symbol_decodeWith, h, Instr.symbol_unknownCode]
  · exact fun h => ⟨_, _, _, decodeWith_of_none h⟩

/-- Settles O37: a word decodes to an unknown order when its opcode has no first candidate. -/
theorem unknownCodeFailsAtDispatch : Obligations.UnknownCodeFailsAtDispatch := by
  refine ⟨fun w => ?_, fun w hw => ?_, fun _ _ _ _ => rfl⟩
  · exact (firstSymbol_codeTable_eq_none_iff _).symm.trans (exists_decodeWith_eq_unknownCode_iff _ w).symm
  · have hnone := (firstSymbol_codeTable_eq_none_iff (opcodeField w)).2 hw
    rw [decode, decodeWith_of_none hnone, hw]

/-! ### No word without a symbol arises -/

variable {s t : State}

theorem SameStore.symbolAt_eq (h : SameStore s t) (w : Nat) : t.symbolAt w = s.symbolAt w := by
  rw [State.symbolAt, State.symbolAt, State.opc, State.opc, h.word_eq, h.config]

/-- A store writes no opcode (20_memory.md R55, 42_transfer.md R171). -/
theorem symbolAt_setAddr (s : State) (n a : Addr) (w : Nat) :
    (s.setAddr n a).symbolAt w = s.symbolAt w := by
  rw [State.symbolAt, State.symbolAt, State.opc, State.opc, word_setAddr, setAddr_config]
  split
  · rw [opcodeField_setAddressField]
  · rfl

/-- A step keeps the symbol of every word. -/
theorem step_symbolAt (h : step s = .next t) (w : Nat) : t.symbolAt w = s.symbolAt w := by
  rcases step_store_cases h with hsame | ⟨-, a, hsame⟩
  · exact hsame.symbolAt_eq w
  · rw [hsame.symbolAt_eq, symbolAt_setAddr]

/-- The word of a line has a symbol, that of its code (30_encoding.md R84). -/
theorem firstSymbol_of_lineWord {t : CodeTable} {i : Nat} {line : TapeLine} {r : LineRecord} {w : Word}
    (h : lineWord t i line = .ok (r, w)) : firstSymbol t (opcodeField w) ≠ none := by
  unfold lineWord at h
  split at h
  · cases h
  · split at h
    · rename_i hw
      cases h
      obtain ⟨c, hc, rfl⟩ := Option.map_eq_some_iff.1 hw
      obtain ⟨f, hf⟩ := exists_firstSymbol hc
      rw [opcodeField_layoutWord, hf]
      exact Option.some_ne_none f
    · cases h

theorem storeLine_noUnknownOpcode {i w : Nat} {line : TapeLine} {r : LineRecord} {v : Word}
    (hline : lineWord s.config.codeTable i line = .ok (r, v)) (hs : s.noUnknownOpcode) :
    (storeLine s w r v).noUnknownOpcode := by
  intro b hb
  have hread : (storeLine s w r v).symbolAt b =
      firstSymbol s.config.codeTable
        (opcodeField (if b = (BitVec.ofNat 10 w).toNat then v else s.word b)) :=
    congrArg (fun x => firstSymbol s.config.codeTable (opcodeField x)) (word_setWord _ _ v b)
  rw [hread]
  split
  · exact firstSymbol_of_lineWord hline
  · exact hs b hb

/-- Every pattern of `BOOT_ROM` has an opcode with a symbol (70_reset_and_hazards.md R253). -/
theorem firstSymbol_bootRom : ∀ w < 31,
    firstSymbol codeTable (opcodeField (patternWord (romPattern Config.standard w))) ≠ none := by
  decide

theorem reset_noUnknownOpcode : State.reset.noUnknownOpcode := by
  intro w _
  have hread : State.reset.symbolAt w =
      firstSymbol codeTable (opcodeField (resetWord Config.standard w)) := rfl
  rw [hread]
  by_cases h : w < 31
  · rw [resetWord_low _ h]
    exact firstSymbol_bootRom w h
  · rw [resetWord_high _ (Nat.le_of_not_lt h)]
    decide

/-- Settles O47: a step keeps every word's symbol, and a load stores words of lines, which have one. -/
theorem unknownOpcodeNeverArises : Obligations.UnknownOpcodeNeverArises := by
  refine ⟨rfl, rfl, reset_noUnknownOpcode, fun s t hs h w hw => ?_, fun s lines hs => ?_⟩
  · rw [step_symbolAt h]
    exact hs w hw
  · exact loadTape_keeps (P := State.noUnknownOpcode)
      (fun _ _ _ _ _ _ hline h => storeLine_noUnknownOpcode hline h) (fun _ h => h) lines hs

end Sys2Proof.Machine
end

section
/-!
PROOFS. Two states that are equal but for spare and length bits (30_encoding.md R72, R73; decision D18) run side
by side: every update of the state, every handler and the step answer alike from them.
-/

namespace Sys2Proof.Machine

/-! ### Words that agree in opcode and address -/

theorem wordsAlike.setAddressField {v w : Word} (h : wordsAlike v w) (a : Addr) :
    wordsAlike (setAddressField v a) (setAddressField w a) :=
  ⟨by rw [opcodeField_setAddressField, opcodeField_setAddressField, h.1],
    by rw [addressField_setAddressField, addressField_setAddressField]⟩

/-- No order reads its length (30_encoding.md R73). -/
theorem exec_ofSymbol_length (c : Symbol) (n : Addr) (l l' : Length) (s : State) :
    exec (.ofSymbol c n l) s = exec (.ofSymbol c n l') s := by cases c <;> rfl

/-- Alike words decode to orders that differ in their length at most, so they run alike. -/
theorem exec_decodeWith_eq {v w : Word} (h : wordsAlike v w) (t : CodeTable) (s : State) :
    exec (decodeWith t v) s = exec (decodeWith t w) s := by
  obtain ⟨hopcode, haddress⟩ := h
  cases hw : firstSymbol t (opcodeField w) with
  | some c =>
    rw [decodeWith_of_some (hopcode ▸ hw), decodeWith_of_some hw, haddress]
    exact exec_ofSymbol_length ..
  | none =>
    rw [decodeWith_of_none (hopcode ▸ hw), decodeWith_of_none hw, hopcode, haddress]
    rfl

/-! ### The tag of a stored word -/

section
variable (s : State) (n a : Addr) (w : Nat)

theorem letter_setAddr : ((s.setAddr n a).tag w).letter = (s.tag w).letter := by
  rw [tag_setAddr]
  split <;> rfl

theorem hasAddress_setAddr : ((s.setAddr n a).tag w).hasAddress = (s.tag w).hasAddress := by
  rw [tag_setAddr]
  split <;> rfl

theorem address_setAddr :
    ((s.setAddr n a).tag w).address = if w = n.toNat then a else (s.tag w).address := by
  rw [tag_setAddr]
  split <;> rfl

end

/-! ### Updates of two alike states -/

section
variable {s t : State} (h : AlikeButIgnoredBits s t)
include h

theorem AlikeButIgnoredBits.operandValue_eq (n : Addr) : s.operandValue n = t.operandValue n :=
  (h.word n.toNat).2

theorem AlikeButIgnoredBits.hasOperand_eq : s.hasOperand = t.hasOperand := by
  rw [State.hasOperand, State.hasOperand, h.hasAddress, h.pc]

theorem AlikeButIgnoredBits.setAcc (a : AccWord) : AlikeButIgnoredBits (s.setAcc a) (t.setAcc a) :=
  { h with acc := rfl }

theorem AlikeButIgnoredBits.setScr (a : Addr) : AlikeButIgnoredBits (s.setScr a) (t.setScr a) :=
  { h with scr := rfl }

theorem AlikeButIgnoredBits.setPc (v : Nat) : AlikeButIgnoredBits (s.setPc v) (t.setPc v) :=
  { h with pc := rfl }

theorem AlikeButIgnoredBits.setStatus (st : Status) :
    AlikeButIgnoredBits (s.setStatus st) (t.setStatus st) := { h with status := rfl }

theorem AlikeButIgnoredBits.emit (c : Symbol) : AlikeButIgnoredBits (s.emit c) (t.emit c) :=
  { h with output := by rw [emit_output, emit_output, h.output] }

theorem AlikeButIgnoredBits.drawScr : AlikeButIgnoredBits s.drawScr t.drawScr :=
  { h with
    scr := by rw [drawScr_scr, drawScr_scr, h.draws]
    draws := by rw [drawScr_draws, drawScr_draws, h.draws] }

theorem AlikeButIgnoredBits.completed : AlikeButIgnoredBits (completed s) (completed t) :=
  { h with pc := by rw [completed_pc, completed_pc, h.pc] }

theorem AlikeButIgnoredBits.takeFault (f : Fault) :
    AlikeButIgnoredBits (takeFault s f) (takeFault t f) := { h with status := rfl }

theorem AlikeButIgnoredBits.fetch : AlikeButIgnoredBits (fetch s) (fetch t) :=
  { h with
    ot := by rw [fetch_ot, fetch_ot, h.pc]; exact h.word t.pc
    scr := by rw [fetch_scr, fetch_scr, h.pc] }

/-- The store of U and T writes one field and keeps every bit beside it (42_transfer.md R172). -/
theorem AlikeButIgnoredBits.setAddr (n a : Addr) :
    AlikeButIgnoredBits (s.setAddr n a) (t.setAddr n a) :=
  { h with
    word := fun w => by
      rw [word_setAddr, word_setAddr]
      split
      · exact (h.word w).setAddressField a
      · exact h.word w
    letter := fun w => by rw [letter_setAddr, letter_setAddr, h.letter]
    hasAddress := fun w => by rw [hasAddress_setAddr, hasAddress_setAddr, h.hasAddress]
    address := fun w => by rw [address_setAddr, address_setAddr, h.address] }

end

/-! ### Handlers from two alike states -/

/-- Two handlers answer alike states, or raise the same fault. -/
inductive ResultsAlike : Except Fault State → Except Fault State → Prop where
  | ok {u v : State} : AlikeButIgnoredBits u v → ResultsAlike (.ok u) (.ok v)
  | error (f : Fault) : ResultsAlike (.error f) (.error f)

theorem ResultsAlike.ite {p : Prop} [Decidable p] {a b a' b' : Except Fault State}
    (ha : ResultsAlike a a') (hb : ResultsAlike b b') :
    ResultsAlike (if p then a else b) (if p then a' else b') := by
  split
  · exact ha
  · exact hb

theorem ResultsAlike.map {f : State → State}
    (hf : ∀ u v, AlikeButIgnoredBits u v → AlikeButIgnoredBits (f u) (f v))
    {r r' : Except Fault State} (h : ResultsAlike r r') : ResultsAlike (r.map f) (r'.map f) := by
  cases h with
  | ok h => exact .ok (hf _ _ h)
  | error f => exact .error f

/-- An iteration that ends in alike results ends in alike states. -/
theorem finish_alike {s t u : State} {r r' : Except Fault State} (h : AlikeButIgnoredBits s t)
    (hr : ResultsAlike r r') (hu : finish s r = .next u) :
    ∃ v, finish t r' = .next v ∧ AlikeButIgnoredBits u v := by
  cases hr with
  | ok hr => cases hu; exact ⟨_, rfl, hr⟩
  | error f => cases hu; exact ⟨_, rfl, h.takeFault f⟩

section
variable {s t : State} (h : AlikeButIgnoredBits s t) (n : Addr)
include h

theorem addOrder_alike : ResultsAlike (addOrder n s) (addOrder n t) := by
  unfold addOrder
  rw [h.hasOperand_eq, h.operandValue_eq, h.acc]
  exact .ite (.ite (.error _) (.ok (h.setAcc _).completed)) (.ok h.completed)

theorem storeAcc_alike : ResultsAlike (storeAcc s n) (storeAcc t n) := by
  unfold storeAcc
  rw [h.acc, h.config]
  exact .ite (.error _) (.ite (.error _) (.ok (h.setAddr n _)))

theorem transferOrder_alike : ResultsAlike (transferOrder n s) (transferOrder n t) := by
  unfold transferOrder
  rw [h.pc, h.config]
  refine .ite (.ok h.completed) ?_
  cases t.config.tMode with
  | legacy => exact .ok (h.setAcc 0#71).completed
  | storeThenClear => exact (storeAcc_alike h n).map fun _ _ h => (h.setAcc 0#71).completed

theorem branchOrder_alike : AlikeButIgnoredBits (branchOrder n s) (branchOrder n t) := by
  unfold branchOrder branchTo
  rw [h.config, h.acc]
  split
  · split
    · exact h.drawScr.setPc 0
    · exact (h.setScr _).setPc _
  · exact h.completed

theorem outputOrder_alike : ResultsAlike (outputOrder n s) (outputOrder n t) := by
  unfold outputOrder
  rw [h.operandValue_eq, h.config]
  cases outputSymbol t.config.codeTable (t.operandValue n) with
  | error f => exact .error f
  | ok c =>
    have hstatus : statusAfterEmit s c = statusAfterEmit t c := by
      rw [statusAfterEmit, statusAfterEmit, h.config, h.status]
    refine .ok ?_
    beta_reduce
    rw [hstatus]
    exact ((h.emit c).setStatus _).completed

end

/-! ### The order and the step -/

section
variable {s t u : State} (h : AlikeButIgnoredBits s t)
include h

theorem exec_alike {i : Instr} (hu : exec i s = .next u) :
    ∃ v, exec i t = .next v ∧ AlikeButIgnoredBits u v := by
  cases i with
  | orderA n l => exact finish_alike h (addOrder_alike h n) hu
  | orderT n l => exact finish_alike h (transferOrder_alike h n) hu
  | orderU n l => exact finish_alike h ((storeAcc_alike h n).map fun _ _ h => h.completed) hu
  | orderG n l => exact finish_alike h (.ok (branchOrder_alike h n)) hu
  | orderS n l => exact finish_alike h (.ok h.completed) hu
  | orderZ n l => exact finish_alike h (.ok (h.setStatus .halted).completed) hu
  | orderO n l => exact finish_alike h (outputOrder_alike h n) hu
  | orderBang n l =>
    have hfirst : ResultsAlike
        (.error (.unimplementedInstruction (firstCandidate s.config.codeTable .bang)))
        (.error (.unimplementedInstruction (firstCandidate t.config.codeTable .bang))) := by
      rw [h.config]
      exact .error _
    exact finish_alike h hfirst hu
  | _ => exact finish_alike h (.error _) hu

theorem iterate_alike (hu : iterate s = .next u) :
    ∃ v, iterate t = .next v ∧ AlikeButIgnoredBits u v := by
  have hfetchable : fetchable t = fetchable s := by rw [fetchable, fetchable, h.pc]
  unfold iterate at hu ⊢
  rw [hfetchable]
  by_cases hp : fetchable s = true
  · rw [if_pos hp] at hu ⊢
    have hsame : exec (decodeTank (fetch t)) (fetch t) = exec (decodeTank (fetch s)) (fetch t) := by
      rw [decodeTank, decodeTank, fetch_config, fetch_config, h.config]
      exact (exec_decodeWith_eq h.fetch.ot _ _).symm
    rw [hsame]
    exact exec_alike h.fetch hu
  · rw [if_neg hp] at hu ⊢
    refine finish_alike h ?_ hu
    rw [h.pc]
    exact .error _

/-- Two alike states are both admitted, or both refused (40_engine.md R111). -/
theorem admission_alike :
    (admission s = .ok (s.setStatus .running) ∧ admission t = .ok (t.setStatus .running)) ∨
    ∃ r, admission s = .error r ∧ admission t = .error r := by
  unfold admission
  rw [h.programLoaded, h.status]
  cases t.programLoaded with
  | false => exact .inr ⟨_, rfl, rfl⟩
  | true => cases t.status <;> simp

theorem step_alike (hu : step s = .next u) : ∃ v, step t = .next v ∧ AlikeButIgnoredBits u v := by
  unfold step at hu ⊢
  rcases admission_alike h with ⟨es, et⟩ | ⟨r, es, et⟩ <;> rw [es] at hu <;> rw [et]
  · exact iterate_alike (h.setStatus .running) hu
  · cases hu
    exact ⟨t, rfl, h⟩

end

/-- Settles O39: admission, fetch and every handler keep the two states alike. -/
theorem spareAndLengthBitsNeverMatter : Obligations.SpareAndLengthBitsNeverMatter :=
  fun _ _ _ h hu => step_alike h hu

end Sys2Proof.Machine
end

section
/-!
PROOFS. The engine (40_engine.md): what `admission` answers, what an admitted step runs, and from the inversion of
an order the status and the `pc` a step leaves.
-/

namespace Sys2Proof.Machine

/-! ### Admission -/

section
variable {s : State}

/-- Idle and Running are the two statuses that do not end a run (40_engine.md R128). -/
theorem Status.ends_eq_false_iff {st : Status} : st.ends = false ↔ st = .idle ∨ st = .running := by
  cases st <;> simp [Status.ends]

theorem admitted_iff :
    s.admitted = true ↔ s.programLoaded = true ∧ (s.status = .idle ∨ s.status = .running) := by
  rw [State.admitted, Bool.and_eq_true, Bool.not_eq_true', Status.ends_eq_false_iff]

theorem admission_of_admitted (h : s.admitted = true) : admission s = .ok (s.setStatus .running) := by
  obtain ⟨hl, hst⟩ := admitted_iff.1 h
  rcases hst with hst | hst <;> rw [admission, if_pos hl, hst]

theorem admission_of_not_loaded (h : s.programLoaded = false) : admission s = .error .noProgramLoaded :=
  if_neg (by rw [h]; exact Bool.false_ne_true)

theorem admission_of_ends (hl : s.programLoaded = true) (h : s.status.ends = true) :
    admission s = .error (.stopped s.status) := by
  rw [admission, if_pos hl]
  cases hst : s.status with
  | idle | running => rw [hst] at h; cases h
  | _ => rfl

theorem admission_of_not_admitted (h : s.admitted = false) : ∃ r, admission s = .error r := by
  rcases Bool.and_eq_false_iff.1 h with hl | hst
  · exact ⟨_, admission_of_not_loaded hl⟩
  · cases hl : s.programLoaded with
    | false => exact ⟨_, admission_of_not_loaded hl⟩
    | true => exact ⟨_, admission_of_ends hl (by simpa using hst)⟩

end

/-! ### The two calls -/

section
variable {s : State}

theorem step_of_admission_error {r : Report} (h : admission s = .error r) : step s = .next s := by
  rw [step, h]

theorem hostStep_of_admission_error {r : Report} (h : admission s = .error r) :
    hostStep s = (r, .next s) := by
  rw [hostStep, admissionReport, step_of_admission_error h, h]

theorem hostStart_of_admission_error {r : Report} (h : admission s = .error r) (fuel : Nat) :
    hostStart fuel s = (r, .next s) := by
  rw [hostStart, h]

theorem step_of_not_admitted (h : s.admitted = false) : step s = .next s := by
  obtain ⟨_, hr⟩ := admission_of_not_admitted h
  exact step_of_admission_error hr

/-- An admitted step is one iteration from Running (40_engine.md R124). -/
theorem step_of_admitted (h : s.admitted = true) : step s = iterate (s.setStatus .running) := by
  rw [step, admission_of_admitted h]

theorem hostStep_of_admitted (h : s.admitted = true) : hostStep s = (.admitted, step s) := by
  rw [hostStep, admissionReport, admission_of_admitted h]

theorem hostStart_of_admitted (h : s.admitted = true) (fuel : Nat) :
    hostStart fuel s = (.admitted,
      if s.stepMode then step s else runWhileRunning fuel (s.setStatus .running)) := by
  rw [hostStart, admission_of_admitted h, step_of_admitted h]
  rfl

theorem iterate_of_lt (h : s.pc < 1024) :
    iterate s = exec (decodeWith s.config.codeTable (s.word s.pc)) (fetch s) :=
  if_pos ((fetchable_iff s).2 h)

theorem iterate_of_ge (h : 1024 ≤ s.pc) : iterate s = .next (takeFault s (.outOfBounds .fetch s.pc)) :=
  if_neg (mt (fetchable_iff s).1 (Nat.not_lt.2 h))

end

/-- Settles O16: a refused call answers the refusal beside the unchanged state, both times. -/
theorem admissionDecidesWhatRuns : Obligations.AdmissionDecidesWhatRuns := by
  refine fun fuel s => ⟨fun hl => ?_, fun hl hst => ?_, fun h t => ?_, fun h => ?_⟩
  · have hr := admission_of_not_loaded hl
    rw [hostStep_of_admission_error hr, hostStart_of_admission_error hr]
    exact ⟨rfl, rfl⟩
  · have hr := admission_of_ends hl hst
    rw [hostStep_of_admission_error hr, hostStart_of_admission_error hr]
    exact ⟨rfl, rfl⟩
  · obtain ⟨r, hr⟩ := admission_of_not_admitted h
    rw [hostStep_of_admission_error hr, hostStart_of_admission_error hr]
    constructor <;> rintro ⟨⟩ <;> rfl
  · rw [hostStep_of_admitted h, hostStart_of_admitted h]
    exact ⟨rfl, rfl, admission_of_admitted h⟩

/-- Settles O15: an admitted step iterates from Running, and `iterate` is split at the end of memory. -/
theorem stepRunsTheDecodedOrder : Obligations.StepRunsTheDecodedOrder := by
  refine fun s h => ⟨fun hpc => ?_, fun hpc => ?_⟩
  · exact (step_of_admitted h).trans (iterate_of_lt (s := s.setStatus .running) hpc)
  · exact (step_of_admitted h).trans (iterate_of_ge (s := s.setStatus .running) hpc)

/-! ### Every step answers -/

/-- A, T, U and O end as their handler's result says; every other order has one end (40_engine.md R121, R122). -/
theorem exec_next (i : Instr) (s : State) : ∃ t, exec i s = .next t := by
  cases i with
  | orderA n l => exact finish_next s (addOrder n s)
  | orderT n l => exact finish_next s (transferOrder n s)
  | orderU n l => exact finish_next s ((storeAcc s n).map completed)
  | orderO n l => exact finish_next s (outputOrder n s)
  | _ => exact ⟨_, rfl⟩

theorem step_next (s : State) : ∃ t, step s = .next t := by
  cases h : s.admitted with
  | false => exact ⟨s, step_of_not_admitted h⟩
  | true =>
    obtain ⟨hrun, hfault⟩ := stepRunsTheDecodedOrder s h
    rcases Nat.lt_or_ge s.pc 1024 with hpc | hpc
    · rw [hrun hpc]
      exact exec_next _ _
    · exact ⟨_, hfault hpc⟩

/-- Settles O20, order by order, and for the step by what an admitted one runs. -/
theorem everyStepAnswersANextState : Obligations.EveryStepAnswersANextState := ⟨exec_next, step_next⟩

/-! ### How an order ends -/

section
variable {i : Instr} {s t : State}

/-- After O from Running the status is Running, or ResetRequested by the sentinel (44_output.md R203). -/
theorem statusAfterEmit_cases (hs : s.status = .running) (c : Symbol) :
    (s.config.haltSentinel = some c ∧ statusAfterEmit s c = .resetRequested) ∨
    statusAfterEmit s c = .running := by
  unfold statusAfterEmit
  split
  · rename_i hc
    exact .inl ⟨hc, rfl⟩
  · exact .inr hs

/-- An order run from Running takes a fault, and is not Z; or it is Z and halts; or it is O and emits the
sentinel; or the machine stays Running (40_engine.md R110, R121, R122). -/
theorem ExecEffect.status_cases (h : ExecEffect i s t) (hs : s.status = .running) :
    (i.symbol ≠ some .Z ∧ ∃ f, t = takeFault s f) ∨
    (i.symbol = some .Z ∧ t.status = .halted) ∨
    (i.symbol = some .O ∧ t.status = .resetRequested ∧
      ∃ c, s.config.haltSentinel = some c ∧ t.output = s.output ++ [c]) ∨
    (i.symbol ≠ some .Z ∧ t.status = .running) := by
  cases h with
  | dispatch f hi => exact .inl ⟨fun hz => by simp [isHandled, hz] at hi, f, rfl⟩
  | storeFault n hst _ | romFault n hst _ _ _ =>
    refine .inl ⟨?_, _, rfl⟩
    rcases hst with ⟨l, rfl⟩ | ⟨⟨l, rfl⟩, -⟩ <;> simp [Instr.symbol]
  | addFault n l hi _ _ | outputFault n l f hi _ =>
    subst hi
    exact .inl ⟨by simp [Instr.symbol], _, rfl⟩
  | stop n l hi =>
    subst hi
    exact .inr (.inl ⟨rfl, rfl⟩)
  | emit n l c hi _ =>
    subst hi
    rcases statusAfterEmit_cases hs c with ⟨hc, hst⟩ | hst
    · exact .inr (.inr (.inl ⟨rfl, hst, c, hc, rfl⟩))
    · exact .inr (.inr (.inr ⟨by simp [Instr.symbol], hst⟩))
  | addSkip n l hi _ | subtract n l hi | transferSkip n l hi _ | branchSkip n l hi _ | add n l hi _ _
  | clear n l hi _ _ | storeClear n l hi _ _ _ _ | store n l hi _ _ | branch n l hi _ _
  | branchZero l hi _ =>
    subst hi
    exact .inr (.inr (.inr ⟨by simp [Instr.symbol], hs⟩))

/-- After an order without a fault `pc` is one further, or a taken G's operand (40_engine.md R121, 43_control.md
R181, R182). -/
theorem ExecEffect.pc_eq (h : ExecEffect i s t) (hf : ∀ f, t.status ≠ .faulted f) :
    t.pc = if i.symbol = some .G ∧ branchTaken s.config.gPolarity s.acc = true then i.operand.toNat
      else s.pc + 1 := by
  cases h with
  | dispatch f _ | addFault | storeFault | romFault | outputFault => exact absurd rfl (hf _)
  | branch n l hi hb _ | branchZero l hi hb =>
    subst hi
    exact (if_pos ⟨rfl, hb⟩).symm
  | branchSkip n l hi hb => exact (if_neg (by simp [hb])).symm
  | addSkip n l hi _ | subtract n l hi | transferSkip n l hi _ | add n l hi _ _
  | clear n l hi _ _ | storeClear n l hi _ _ _ _ | store n l hi _ _ | stop n l hi | emit n l _ hi _ =>
    subst hi
    exact (if_neg (by simp [Instr.symbol])).symm

/-- G branches when the sign bit is the one its polarity names (43_control.md R180, R181). -/
theorem branchTaken_iff (p : GPolarity) (a : AccWord) :
    branchTaken p a = true ↔ a.getMsbD 0 = (p == .branchIfNegative) := by
  cases p with
  | branchIfNonnegative => exact Iff.of_eq (Bool.not_eq_true' _)
  | branchIfNegative => rfl

end

/-! ### How an admitted step ends -/

section
variable {s t : State}

/-- Inversion of an admitted step: a fetch out of range, or the decoded order's effect. -/
theorem step_admitted_cases (hs : s.admitted = true) (h : step s = .next t) :
    (1024 ≤ s.pc ∧ t = takeFault s (.outOfBounds .fetch s.pc)) ∨
    (s.pc < 1024 ∧
      ExecEffect (decodeWith s.config.codeTable (s.word s.pc)) (fetch (s.setStatus .running)) t) := by
  obtain ⟨hl, hst⟩ := admitted_iff.1 hs
  rcases step_cases h with ⟨hr, -⟩ | ⟨-, -, hpc, ht⟩ | ⟨-, -, hpc, he⟩
  · rcases hr with hr | ⟨hidle, hrun⟩
    · rw [hl] at hr; cases hr
    · exact absurd hst (not_or.2 ⟨hidle, hrun⟩)
  · exact .inl ⟨hpc, ht⟩
  · exact .inr ⟨hpc, he⟩

/-- Every status an admitted step can leave, with the order that leaves it, and the state a fault leaves
(40_engine.md R110, R114, R122). -/
theorem step_status_cases (hs : s.admitted = true) (h : step s = .next t) :
    (¬(s.pc < 1024 ∧ s.symbolAt s.pc = some .Z) ∧
      ∃ f, t = takeFault (if s.pc < 1024 then fetch s else s) f) ∨
    ((s.pc < 1024 ∧ s.symbolAt s.pc = some .Z) ∧ t.status = .halted) ∨
    (s.symbolAt s.pc = some .O ∧ t.status = .resetRequested ∧
      ∃ c, s.config.haltSentinel = some c ∧ t.output = s.output ++ [c]) ∨
    (¬(s.pc < 1024 ∧ s.symbolAt s.pc = some .Z) ∧ t.status = .running) := by
  rcases step_admitted_cases hs h with ⟨hpc, rfl⟩ | ⟨hpc, he⟩
  · exact .inl ⟨fun hz => Nat.not_lt.2 hpc hz.1, _, by rw [if_neg (Nat.not_lt.2 hpc)]⟩
  · rw [symbolAt_eq_of_decode (s := s) (w := s.pc) rfl, if_pos hpc]
    rcases he.status_cases rfl with ⟨hz, f, rfl⟩ | ⟨hz, hst⟩ | ho | ⟨hz, hst⟩
    · exact .inl ⟨fun h => hz h.2, f, rfl⟩
    · exact .inr (.inl ⟨⟨hpc, hz⟩, hst⟩)
    · exact .inr (.inr (.inl ho))
    · exact .inr (.inr (.inr ⟨fun h => hz h.2, hst⟩))

end

/-- Settles O18: the four ways a step can end differ in the status they leave. -/
theorem statusMovesAsTheTableSays : Obligations.StatusMovesAsTheTableSays := by
  intro s t hs h
  rcases step_status_cases hs h with ⟨hz, f, rfl⟩ | ⟨hz, hst⟩ | ⟨ho, hst, hc⟩ | ⟨hz, hst⟩
  · simp [hz]
  · simp [hz, hst]
  · simp [ho, hst, hc]
  · simp [hz, hst]

/-- Settles O17: of the ways a step can end one leaves a fault, and it names its state; a stopped machine is
refused. -/
theorem faultsWriteOnlyTheStatus : Obligations.FaultsWriteOnlyTheStatus := by
  refine ⟨fun s t f hs h hf => ?_, fun s t f hf => ⟨fun h => ?_, rfl⟩⟩
  · rcases step_status_cases hs h with ⟨-, g, rfl⟩ | ⟨-, hst⟩ | ⟨-, hst, -⟩ | ⟨-, hst⟩
    · cases hf
      split <;> rfl
    all_goals cases hst.symm.trans hf
  · have hstopped : s.admitted = false := by simp [State.admitted, hf, Status.ends]
    rw [step_of_not_admitted hstopped] at h
    cases h
    rfl

/-- Settles O19: `pc` by the effect of the order, the status by the four ways a step can end. -/
theorem completionAdvancesThePc : Obligations.CompletionAdvancesThePc := by
  intro s t hs h hf
  refine ⟨?_, fun hz ho => ?_⟩
  · rcases step_admitted_cases hs h with ⟨-, rfl⟩ | ⟨-, he⟩
    · exact absurd rfl (hf _)
    · have hpc := he.pc_eq hf
      simp only [symbol_decodeWith, operand_decodeWith, branchTaken_iff] at hpc
      exact hpc
  · rcases step_status_cases hs h with ⟨-, f, rfl⟩ | ⟨⟨-, hsym⟩, -⟩ | ⟨hsym, -⟩ | ⟨-, hst⟩
    · exact absurd rfl (hf f)
    · exact absurd hsym hz
    · exact absurd hsym ho
    · exact hst

/-! ### `start()` -/

/-- A machine that is not admitted does not move (40_engine.md R111). -/
theorem stepTimes_of_not_admitted {s : State} (h : s.admitted = false) (k : Nat) :
    stepTimes k s = .next s := by
  induction k with
  | zero => rfl
  | succ k ih => rw [stepTimes, step_of_not_admitted h]; exact ih

/-- The loop of `start()` is the step repeated: it ends where the step stops changing the state
(40_engine.md R125, R127). -/
theorem runWhileRunning_eq_stepTimes (fuel : Nat) {s : State} (hl : s.programLoaded = true)
    (hidle : s.status ≠ .idle) : runWhileRunning fuel s = stepTimes fuel s := by
  induction fuel generalizing s with
  | zero => rfl
  | succ fuel ih =>
    by_cases hr : s.status = .running
    · obtain ⟨t, ht⟩ := step_next s
      have hidle' : t.status ≠ .idle :=
        (statusMovesAsTheTableSays s t (admitted_iff.2 ⟨hl, .inr hr⟩) ht).2.2
      rw [runWhileRunning, if_pos hr, iterate_eq_step hl hr, stepTimes, ht]
      exact ih ((step_programLoaded ht).trans hl) hidle'
    · have hstopped : s.admitted = false :=
        Bool.eq_false_iff.2 fun h => (admitted_iff.1 h).2.elim hidle hr
      rw [runWhileRunning, if_neg hr, stepTimes_of_not_admitted hstopped]

/-- Settles O21: an admitted `start()` is one iteration, or the loop, which is the step repeated. -/
theorem startIsTheStepRepeated : Obligations.StartIsTheStepRepeated := by
  intro fuel s h
  have hl : s.programLoaded = true := (admitted_iff.1 h).1
  have hrun : runWhileRunning fuel (s.setStatus .running) = stepTimes fuel (s.setStatus .running) :=
    runWhileRunning_eq_stepTimes fuel hl (by simp)
  rw [hostStart_of_admitted h, hrun]
  rfl

/-! ### The host's reads -/

theorem toOption_test {capacity : Nat} (m : BitVec capacity) (i : Nat) :
    (BitMemory.test m i).toOption = if i < capacity then some (m.getMsbD i) else none := by
  unfold BitMemory.test
  split <;> rfl

/-- Settles O22: every read is the bit at its index, behind its range check. -/
theorem hostReadsOneBit : Obligations.HostReadsOneBit := by
  refine fun s => ⟨fun w k hw hk => ?_, fun i hi => ?_, fun w => rfl, fun i => ?_⟩
  · rw [readMemoryBit, bit_of_word s w hk, if_pos]
    simp only [Config.memBits, Config.memWords, Config.wordBits]
    omega
  · exact if_neg (Nat.not_lt.2 hi)
  · exact ⟨toOption_test _ i, toOption_test _ i, toOption_test _ i, toOption_test _ i, toOption_test _ i⟩

/-! ### Orders without a handler -/

/-- Under `CODE_TABLE` the word of a symbol other than `!` decodes to the symbol's order (30_encoding.md R78). -/
theorem decodesAs_ofSymbol {c : Symbol} (hc : c ≠ .bang) :
    ∃ d, codeOf codeTable c = some d ∧ decodesAs d (Instr.ofSymbol c) := by
  obtain ⟨d, hd⟩ := codeTable_lawful.exists_code c
  obtain ⟨r, hr⟩ := exists_firstSymbol hd
  have hrc : c = r := by
    rw [← firstCandidate_of_code hd hr, firstCandidate_codeTable, if_neg hc]
  subst hrc
  exact ⟨d, hd, fun w hw => decodeWith_of_some (hw ▸ hr)⟩

theorem exec_unhandled {c : Symbol} (hc : c ∈ unhandledSymbols) (n : Addr) (l : Length) (s : State) :
    exec (.ofSymbol c n l) s = dispatchFailure s c := by
  cases c with
  | A | S | T | U | G | O | Z | bang => exact absurd hc (by decide)
  | _ => rfl

/-- Settles O35: `!` is none of the 24, so each comes first for its code. -/
theorem unhandledOrdersFailAtDispatch : Obligations.UnhandledOrdersFailAtDispatch := by
  intro c hc n l s
  have hbang : c ≠ .bang := by
    rintro rfl
    exact absurd hc (by decide)
  exact ⟨decodesAs_ofSymbol hbang, exec_unhandled hc n l s⟩

end Sys2Proof.Machine
end

section
/-!
PROOFS. What the loader puts where the next fetch finds it (40_engine.md R112; 70_reset_and_hazards.md R260 to
R264): the load loop, line by line, and the one word that `withFetchWord` places.
-/

namespace Sys2Proof

/-! ### A line's word -/

section
variable {t : CodeTable} {line : TapeLine} {r : LineRecord}

/-- A line parses to a symbol that the table lists (30_encoding.md R77, R84). -/
theorem symbol_mem_of_parse (h : parseInstructionLine t line = .ok r) : r.symbol ∈ t.map Prod.fst := by
  unfold parseInstructionLine at h
  split at h
  · cases h
  · split at h
    · cases h
    · rename_i hs
      dsimp only at h
      split at h <;> cases h
      exact List.mem_of_find?_eq_some hs

theorem exists_codeOf_of_mem {s : Symbol} (h : s ∈ t.map Prod.fst) : ∃ c, codeOf t s = some c := by
  obtain ⟨e, he, hes⟩ := List.mem_map.1 h
  refine Option.isSome_iff_exists.1 ?_
  rw [codeOf, Option.isSome_map, List.find?_isSome]
  exact ⟨e, he, beq_iff_eq.2 hes⟩

theorem exists_encodeWord_of_parse (h : parseInstructionLine t line = .ok r) :
    ∃ v, encodeWord t r = some v := by
  obtain ⟨c, hc⟩ := exists_codeOf_of_mem (symbol_mem_of_parse h)
  exact ⟨_, encodeWord_of_code hc⟩

end

end Sys2Proof

namespace Sys2Proof.Machine

section
variable {t : CodeTable} {i : Nat} {line : TapeLine}

theorem lineWord_of_parse {r : LineRecord} {v : Word} (hr : parseInstructionLine t line = .ok r)
    (hv : encodeWord t r = some v) : lineWord t i line = .ok (r, v) := by
  simp only [lineWord, hr, hv]

theorem parse_of_lineWord {r : LineRecord} {v : Word} (h : lineWord t i line = .ok (r, v)) :
    parseInstructionLine t line = .ok r ∧ encodeWord t r = some v := by
  unfold lineWord at h
  split at h
  · cases h
  · rename_i hr
    split at h <;> cases h
    rename_i hv
    exact ⟨hr, hv⟩

/-- A line without a word does not parse: a parsed one has a code. -/
theorem not_parse_of_lineWord_error {f : Fault} (h : lineWord t i line = .error f) :
    ¬∃ r, parseInstructionLine t line = .ok r := by
  rintro ⟨r, hr⟩
  obtain ⟨v, hv⟩ := exists_encodeWord_of_parse hr
  cases (lineWord_of_parse hr hv).symm.trans h

end

/-! ### The load loop -/

section
variable {s t : State} {w : Nat}

theorem word_storeLine (hw : w < 1024) (r : LineRecord) (v : Word) (b : Nat) :
    (storeLine s w r v).word b = if b = w then v else s.word b := by
  rw [storeLine, word_setWord, toNat_ofNat_addr hw, setTag_word]

theorem tag_storeLine (hw : w < 1024) (r : LineRecord) (v : Word) (b : Nat) :
    (storeLine s w r v).tag b = if b = w then tagOfLine r else s.tag b := by
  rw [storeLine, setWord_tag, tag_setTag, toNat_ofNat_addr hw]

/-- `t` is `s` with the lines of `tape` standing in the words from `w` on (70_reset_and_hazards.md R262). -/
structure TapeStands (s t : State) (w : Nat) (tape : List TapeLine) : Prop where
  line : ∀ k line, tape[k]? = some line → ∃ r, parseInstructionLine s.config.codeTable line = .ok r ∧
    encodeWord s.config.codeTable r = some (t.word (w + k)) ∧ t.tag (w + k) = tagOfLine r
  rest : ∀ b, b < w ∨ w + tape.length ≤ b → t.word b = s.word b ∧ t.tag b = s.tag b

theorem TapeStands.nil (h : SameStore s t) (w : Nat) : TapeStands s t w [] where
  line _ _ hk := by cases hk
  rest b _ := ⟨h.word_eq b, h.tag_eq b⟩

/-- A line stored at `w`, and the others from `w + 1` on. -/
theorem TapeStands.cons {i : Nat} {line : TapeLine} {tape : List TapeLine} {r : LineRecord} {v : Word}
    (hw : w < 1024) (hline : lineWord s.config.codeTable i line = .ok (r, v))
    (h : TapeStands (storeLine s w r v) t (w + 1) tape) : TapeStands s t w (line :: tape) where
  line k line' hk := by
    cases k with
    | zero =>
      cases hk
      obtain ⟨hr, hv⟩ := parse_of_lineWord hline
      obtain ⟨hword, htag⟩ := h.rest w (.inl w.lt_succ_self)
      rw [word_storeLine hw, if_pos rfl] at hword
      rw [tag_storeLine hw, if_pos rfl] at htag
      rw [Nat.add_zero, hword]
      exact ⟨r, hr, hv, htag⟩
    | succ k =>
      rw [← Nat.succ_add_eq_add_succ]
      exact h.line k line' hk
  rest b hb := by
    rw [List.length_cons] at hb
    have hword := h.rest b (by omega)
    rwa [word_storeLine hw, tag_storeLine hw, if_neg (by omega), if_neg (by omega)] at hword

/-- The loop loads exactly the tapes whose lines, the comments apart, all parse and fit
(70_reset_and_hazards.md R262 to R264). -/
theorem loadLines_loaded_iff (lines : List TapeLine) (i : Nat) (hw : w ≤ 1024) :
    (loadLines lines i w s).1 = .loaded ↔
      (∀ line ∈ lines, isComment line = false →
        ∃ r, parseInstructionLine s.config.codeTable line = .ok r) ∧
      w + (lines.filter fun x => !isComment x).length ≤ 1024 := by
  fun_induction loadLines lines i w s with
  | case1 => simpa using hw
  | case2 i w s line lines hc ih => simp [hc, ih hw]
  | case3 i w s line lines hc hfull =>
    have hfull : 1024 ≤ w := hfull
    refine iff_of_false nofun fun ⟨_, hlen⟩ => ?_
    rw [List.filter_cons_of_pos (by simp [hc]), List.length_cons] at hlen
    omega
  | case4 i w s line lines hc hfull f hline =>
    exact iff_of_false nofun fun ⟨hparse, _⟩ =>
      not_parse_of_lineWord_error hline (hparse line List.mem_cons_self (by simpa using hc))
  | case5 i w s line lines hc hfull r v hline ih =>
    have hroom : w + 1 ≤ 1024 := Nat.lt_of_not_le hfull
    rw [ih hroom, List.filter_cons_of_pos (by simp [hc]), List.length_cons, List.forall_mem_cons]
    exact and_congr ⟨fun h => ⟨fun _ => ⟨r, (parse_of_lineWord hline).1⟩, h⟩, And.right⟩ (by omega)

theorem loadLines_tapeStands (lines : List TapeLine) (i : Nat) (hw : w ≤ 1024)
    (h : (loadLines lines i w s).1 = .loaded) :
    TapeStands s (loadLines lines i w s).2 w (lines.filter fun x => !isComment x) := by
  fun_induction loadLines lines i w s with
  | case1 i w s =>
    refine .nil ?_ w
    exact ⟨rfl, rfl, rfl⟩
  | case2 i w s line lines hc ih =>
    rw [List.filter_cons_of_neg (by simp [hc])]
    exact ih hw h
  | case3 | case4 => cases h
  | case5 i w s line lines hc hfull r v hline ih =>
    have hroom : w < 1024 := Nat.lt_of_not_le hfull
    rw [List.filter_cons_of_pos (by simp [hc])]
    exact .cons hroom hline (ih hroom h)

theorem loadLines_programLoaded (lines : List TapeLine) (i w : Nat) (s : State)
    (h : (loadLines lines i w s).1 = .loaded) : (loadLines lines i w s).2.programLoaded = true := by
  fun_induction loadLines lines i w s with
  | case1 => rfl
  | case2 _ _ _ _ _ _ ih => exact ih h
  | case3 | case4 => cases h
  | case5 _ _ _ _ _ _ _ _ _ _ ih => exact ih h

end

/-! ### The whole load -/

/-- Undoing a failed load keeps its report (70_reset_and_hazards.md R264). -/
theorem settleLoad_report (s : State) (r : LoadReport × State) : (settleLoad s r).1 = r.1 := by
  unfold settleLoad
  split
  · rename_i h _
    exact h.symm
  · rfl

theorem loadTape_report {s : State} (h : s.status = .idle) (lines : List TapeLine) :
    (loadTape s lines).1 = (loadLines lines 1 31 s).1 := by
  simp only [loadTape, h, settleLoad_report]
  rfl

/-- A load that succeeds was called in Idle, and leaves what its loop left (70_reset_and_hazards.md R260, R263). -/
theorem loadTape_eq_loaded {s t : State} {lines : List TapeLine} (h : loadTape s lines = (.loaded, t)) :
    s.status = .idle ∧ loadLines lines 1 31 s = (.loaded, t) := by
  unfold loadTape at h
  split at h
  · rename_i hs
    unfold settleLoad at h
    split at h
    · cases h
    · exact ⟨hs, h⟩
  all_goals cases h

/-- Settles O52: the loop from word 31 has room for 993 words, and leaves the tape there. -/
theorem loadedTapeStandsInMemory : Obligations.LoadedTapeStandsInMemory := by
  refine ⟨fun s lines hs => ?_, fun s t lines h => ?_⟩
  · rw [loadTape_report hs, loadLines_loaded_iff lines 1 (by decide)]
    exact and_congr_right fun _ => by omega
  · obtain ⟨hs, h⟩ := loadTape_eq_loaded h
    have hloaded : (loadLines lines 1 31 s).1 = .loaded := by rw [h]
    have hprogram := loadLines_programLoaded lines 1 31 s hloaded
    have hstands := loadLines_tapeStands lines 1 (by decide) hloaded
    rw [h] at hprogram hstands
    obtain ⟨-, hlen⟩ := (loadLines_loaded_iff lines 1 (by decide)).1 hloaded
    exact ⟨hprogram, hlen, hstands.line, hstands.rest⟩

/-! ### One placed word -/

section
variable (s : State) (w : Word)

/-- `loadWordAtPc` leaves `pc` where it was, or at the entry word (log 13). -/
theorem pc_loadWordAtPc : (loadWordAtPc s w).pc = if s.pc < 1024 then s.pc else 31 := rfl

theorem pc_loadWordAtPc_lt : (loadWordAtPc s w).pc < 1024 := by
  rw [pc_loadWordAtPc]
  split <;> omega

theorem admitted_loadWordAtPc : (loadWordAtPc s w).admitted = true := by
  refine admitted_iff.2 ⟨rfl, ?_⟩
  by_cases h : s.status = .running
  · exact .inr (if_pos h)
  · exact .inl (if_neg h)

theorem word_loadWordAtPc (b : Nat) :
    (loadWordAtPc s w).word b = if b = (loadWordAtPc s w).pc then w else s.word b := by
  rw [← toNat_ofNat_addr (pc_loadWordAtPc_lt s w)]
  exact word_setWord s _ w b

theorem tag_loadWordAtPc (b : Nat) :
    (loadWordAtPc s w).tag b =
      if b = (loadWordAtPc s w).pc then tagOfWord s.config.codeTable w else s.tag b := by
  rw [← toNat_ofNat_addr (pc_loadWordAtPc_lt s w)]
  exact tag_setTag (s.setWord _ w) _ _ b

/-- A 17-bit word is the lowest 24 bits of its own number (log 14). -/
theorem withFetchWord_toNat : s.withFetchWord 24 w.toNat = loadWordAtPc s w := by
  have hmod : w.toNat % 2 ^ 24 = w.toNat := Nat.mod_eq_of_lt (by omega)
  rw [State.withFetchWord, hmod, BitVec.ofNat_toNat, BitVec.setWidth_eq]

end

/-- Settles O57: the state that fetch leaves from the placed word. -/
theorem stepRunsThePlacedWord : Obligations.StepRunsThePlacedWord := by
  intro s w
  rw [withFetchWord_toNat]
  have hword : (loadWordAtPc s w).word (loadWordAtPc s w).pc = w := by
    rw [word_loadWordAtPc, if_pos rfl]
  have hstep := (stepRunsTheDecodedOrder _ (admitted_loadWordAtPc s w)).1 (pc_loadWordAtPc_lt s w)
  rw [hword] at hstep
  refine ⟨_, hstep, rfl, rfl, ?_, fun hpc => ?_, fun b hb => ?_⟩
  · exact congrArg Tag.hasAddress ((tag_loadWordAtPc s w _).trans (if_pos rfl))
  · exact (pc_loadWordAtPc s w).trans (if_pos hpc)
  · exact (word_loadWordAtPc s w b).trans (if_neg hb)

end Sys2Proof.Machine
end

section
/-!
PROOFS. The arithmetic orders (41_arithmetic.md): A and S as equations of `exec`, and from the inversion of the
step the three things it may do to the Accumulator.
-/

namespace Sys2Proof.Machine

/-! ### The words and the operand of A and S -/

/-- A word whose opcode has first candidate `c` decodes to the order of `c` (30_encoding.md R78, R80). -/
theorem decodesAs_of_firstSymbol {c : Symbol} {d : Code} (h : firstSymbol codeTable d = some c) :
    decodesAs d (Instr.ofSymbol c) :=
  fun _ hw => decodeWith_of_some (hw ▸ h)

/-- The read of A and O at an operand's field, as the pseudocode writes it (41_arithmetic.md R141). -/
theorem memRead_addressField (s : State) (n : Addr) :
    memRead s (17 * n.toNat + 6) 10 = .ok (s.addr n.toNat) :=
  memRead_inWord s n.isLt (by decide) fun _ hk => getMsbD_addressField _ hk

/-! ### A sum below 2^70, in the 71 bits of the Accumulator -/

section
variable {x : Nat} (h : x < 2 ^ 70)
include h

theorem toNat_ofNat_acc : (BitVec.ofNat 71 x).toNat = x := Nat.mod_eq_of_lt (by omega)

/-- The sign bit is the weight 2^70, which the sum does not reach (10_state.md R22). -/
theorem sign_ofNat_acc : (BitVec.ofNat 71 x).getMsbD 0 = false := by
  have hbelow : 2 * (BitVec.ofNat 71 x).toNat < 2 ^ 71 := by
    rw [toNat_ofNat_acc h]
    omega
  exact BitVec.msb_eq_false_iff_two_mul_lt.2 hbelow

end

/-! ### A and S -/

/-- A, with its operand's field read by the word accessor (41_arithmetic.md R141). -/
theorem exec_orderA (n : Addr) (l : Length) (s : State) :
    exec (.orderA n l) s = .next
      (if (s.tag s.pc).hasAddress = false then completed s
       else if 2 ^ 70 ≤ s.acc.toNat + (s.addr n.toNat).toNat then
         takeFault s (.accumulatorOverflow s.acc (s.addr n.toNat))
       else completed (s.setAcc (BitVec.ofNat 71 (s.acc.toNat + (s.addr n.toNat).toNat)))) := by
  have hexec : exec (.orderA n l) s = finish s (addOrder n s) := rfl
  rcases addOrder_cases n s with ⟨ha, e⟩ | ⟨ha, hsum, e⟩ | ⟨ha, hsum, e⟩ <;> rw [hexec, e]
  · rw [if_pos ha]
    rfl
  · rw [if_neg (by simp [ha]), if_pos hsum]
    rfl
  · rw [if_neg (by simp [ha]), if_neg (Nat.not_le.2 hsum)]
    rfl

/-- Settles O23: the accessor's field is the ten bits read, and A has these three outcomes. -/
theorem addOrderAddsOrFaults : Obligations.AddOrderAddsOrFaults :=
  ⟨decodesAs_of_firstSymbol (c := .A) rfl,
    fun n l s => ⟨s.addr n.toNat, memRead_addressField s n, exec_orderA n l s⟩⟩

/-- Settles O24: the sum A writes is below the sign bit. -/
theorem addedSumReadsBack : Obligations.AddedSumReadsBack := by
  intro n l s ha hsum
  refine ⟨_, exec_orderA n l s, ?_⟩
  rw [if_neg (by simp [ha]), if_neg (Nat.not_le.2 hsum)]
  exact ⟨toNat_ofNat_acc hsum, sign_ofNat_acc hsum⟩

/-- Settles O27: S's handler is the completion alone. -/
theorem subtractOrderOnlyCompletes : Obligations.SubtractOrderOnlyCompletes :=
  ⟨decodesAs_of_firstSymbol (c := .S) rfl, fun _ _ _ => rfl⟩

/-! ### What a step may do to the Accumulator -/

/-- An order keeps ACC, adds a ten-bit field below 2^70, or is a T away from word 31, which clears it
(41_arithmetic.md R146). -/
theorem ExecEffect.acc_cases {i : Instr} {s t : State} (h : ExecEffect i s t) :
    t.acc = s.acc ∨
    (∃ v : Addr, s.acc.toNat + v.toNat < 2 ^ 70 ∧ t.acc = BitVec.ofNat 71 (s.acc.toNat + v.toNat)) ∨
    (i.symbol = some .T ∧ s.pc ≠ 31 ∧ t.acc = 0#71) := by
  cases h with
  | add n l _ _ hsum => exact .inr (.inl ⟨s.addr n.toNat, hsum, rfl⟩)
  | clear n l hi hpc _ => exact .inr (.inr ⟨congrArg Instr.symbol hi, hpc, rfl⟩)
  | storeClear n l hi hpc _ _ _ => exact .inr (.inr ⟨congrArg Instr.symbol hi, hpc, rfl⟩)
  | _ => exact .inl rfl

/-- A step does no more to ACC than its order: admission, the fetch and a fetch fault leave it alone. -/
theorem step_acc_cases {s t : State} (h : step s = .next t) :
    t.acc = s.acc ∨
    (∃ v : Addr, s.acc.toNat + v.toNat < 2 ^ 70 ∧ t.acc = BitVec.ofNat 71 (s.acc.toNat + v.toNat)) ∨
    (s.symbolAt s.pc = some .T ∧ s.pc ≠ 31 ∧ t.acc = 0#71) := by
  rcases step_cases h with ⟨-, rfl⟩ | ⟨-, -, -, rfl⟩ | ⟨-, -, -, he⟩
  · exact .inl rfl
  · exact .inl rfl
  · rw [symbolAt_eq_of_decode (s := s) (w := s.pc) rfl]
    exact he.acc_cases

/-- Settles O25: the sign bit is that of the old ACC, of a sum below 2^70, or of 0. -/
theorem signBitStaysClear : Obligations.SignBitStaysClear := by
  intro s t hsign h
  rcases step_acc_cases h with hkept | ⟨v, hsum, hadded⟩ | ⟨-, -, hcleared⟩
  · rw [hkept, hsign]
  · rw [hadded, sign_ofNat_acc hsum]
  · rw [hcleared, BitVec.getMsbD_zero]

/-- Settles O26: kept, ACC is not lowered, and a sum is at least what it was. -/
theorem onlyTDecreasesTheAccumulator : Obligations.OnlyTDecreasesTheAccumulator := by
  intro s t h hlower
  rcases step_acc_cases h with hkept | ⟨v, hsum, hadded⟩ | hclear
  · rw [hkept] at hlower
    exact absurd hlower (Nat.lt_irrefl _)
  · rw [hadded, toNat_ofNat_acc hsum] at hlower
    omega
  · exact hclear

end Sys2Proof.Machine
end

section
/-!
PROOFS. The transfer orders (42_transfer.md): the store of U and T bit by bit, then T and U as equations of
`exec`.
-/

namespace Sys2Proof.Machine

/-! ### The store -/

/-- Settles O11: inside the field a bit is the operand's, outside it is kept; no field of the state but memory
and tags is written. -/
theorem addressStoreWritesOnlyItsField : Obligations.AddressStoreWritesOnlyItsField := by
  refine fun s n a => ⟨fun i hi => ?_, fun i hi => ?_, tag_setAddr s n a, rfl⟩
  · rw [bit_setAddr, if_pos hi]
  · rw [bit_setAddr, if_neg hi]

/-- `U_store(n)` and what follows it in a handler: a fault is taken in the state the handler was entered with
(42_transfer.md R172). -/
theorem finish_map_storeAcc (s : State) (n : Addr) (k : State → State) :
    finish s ((storeAcc s n).map k) = .next
      (if 2 ^ 10 ≤ s.acc.toNat then takeFault s (.storeOverflow s.acc)
       else if n.toNat ≤ 30 ∧ s.config.romWrite = .fault then takeFault s (.romWrite n)
       else k (s.setAddr n (BitVec.ofNat 10 s.acc.toNat))) := by
  rcases storeAcc_cases s n with ⟨hbig, e⟩ | ⟨hfits, hlow, hrom, e⟩ | ⟨hfits, hfree, e⟩ <;> rw [e]
  · rw [if_pos hbig]
    rfl
  · rw [if_neg (Nat.not_le.2 hfits), if_pos ⟨Nat.le_of_lt_succ hlow, hrom⟩]
    rfl
  · rw [if_neg (Nat.not_le.2 hfits), if_neg fun ⟨hlow, hrom⟩ => hfree ⟨Nat.lt_succ_of_le hlow, hrom⟩]
    rfl

/-- No order writes a bit outside the address field of its operand (20_memory.md R54, R55). -/
theorem exec_bit_outside {i : Instr} {s t : State} {j : Nat} (h : exec i s = .next t)
    (hj : ¬inAddressField i.operand j) : t.bit j = s.bit j := by
  rcases (exec_effect h).store_cases with hsame | ⟨-, a, hsame⟩
  · exact hsame.bit_eq j
  · rw [hsame.bit_eq, bit_setAddr, if_neg hj]

/-! ### T -/

/-- Settles O28: the three cases of T's handler, the last of them U's store before the clearing. -/
theorem transferOrderClears : Obligations.TransferOrderClears := by
  refine ⟨decodesAs_of_firstSymbol (c := .T) rfl,
    fun n l s => ⟨?_, fun t i h hi => exec_bit_outside h hi⟩⟩
  have hexec : exec (.orderT n l) s = finish s (transferOrder n s) := rfl
  rcases transferOrder_cases n s with ⟨hpc, e⟩ | ⟨hpc, hmode, e⟩ | ⟨hpc, hmode, e⟩ <;> rw [hexec, e]
  · rw [if_pos hpc]
    rfl
  · rw [if_neg hpc, hmode]
    rfl
  · rw [if_neg hpc, hmode]
    exact finish_map_storeAcc s n fun t => completed (clearAcc t)

/-! ### U -/

theorem exec_orderU (n : Addr) (l : Length) (s : State) :
    exec (.orderU n l) s = .next
      (if 2 ^ 10 ≤ s.acc.toNat then takeFault s (.storeOverflow s.acc)
       else if n.toNat ≤ 30 ∧ s.config.romWrite = .fault then takeFault s (.romWrite n)
       else completed (s.setAddr n (BitVec.ofNat 10 s.acc.toNat))) :=
  finish_map_storeAcc s n completed

/-- A U that moves on has stored an Accumulator that fits the field: after a fault `pc` still names the word
(40_engine.md R122). -/
theorem eq_stored_of_exec_orderU {n : Addr} {l : Length} {s t : State}
    (h : exec (.orderU n l) s = .next t) (hpc : t.pc = s.pc + 1) :
    s.acc.toNat < 2 ^ 10 ∧ t = completed (s.setAddr n (BitVec.ofNat 10 s.acc.toNat)) := by
  rw [exec_orderU] at h
  injection h with h
  subst h
  split_ifs at hpc ⊢ with hbig hrom
  · exact absurd hpc (Nat.ne_of_lt s.pc.lt_succ_self)
  · exact absurd hpc (Nat.ne_of_lt s.pc.lt_succ_self)
  · exact ⟨Nat.lt_of_not_le hbig, rfl⟩

/-- Settles O29: U is its store, and an Accumulator that fits ten bits reads back from the field. -/
theorem storeOrderWritesTheAddressField : Obligations.StoreOrderWritesTheAddressField := by
  refine ⟨decodesAs_of_firstSymbol (c := .U) rfl, fun n l s => ⟨exec_orderU n l s,
    fun t i h hi => exec_bit_outside h hi, fun t h _ hpc => ?_⟩⟩
  obtain ⟨hfits, rfl⟩ := eq_stored_of_exec_orderU h hpc
  rw [completed_addr, completed_tag, addr_setAddr, tag_setAddr, if_pos rfl, if_pos rfl]
  exact ⟨Nat.mod_eq_of_lt hfits, rfl, rfl⟩

end Sys2Proof.Machine
end

section
/-!
PROOFS. The control orders (43_control.md): what a taken and an untaken G leave, that in a reachable state the sign
bit G tests is clear, and the machine that Z has halted.
-/

namespace Sys2Proof.Machine

/-! ### G -/

/-- G has no fault (43_control.md R181). -/
theorem exec_orderG (n : Addr) (l : Length) (s : State) :
    exec (.orderG n l) s = .next (branchOrder n s) := rfl

/-- Settles O30: G's three outcomes, of which the branch to word 0 leaves a drawn SCR. -/
theorem branchOrderTestsTheSign : Obligations.BranchOrderTestsTheSign := by
  refine ⟨decodesAs_of_firstSymbol (c := .G) rfl,
    fun n l s => ⟨branchOrder n s, exec_orderG n l s, ?_⟩⟩
  simp only [← branchTaken_iff]
  rcases branchOrder_cases n s with ⟨hb, e⟩ | ⟨hb, hn, e⟩ | ⟨hb, hn, e⟩ <;> rw [e]
  · rw [if_neg (Bool.eq_false_iff.1 hb)]
    rfl
  · rw [if_pos hb, if_neg hn]
    rfl
  · rw [if_pos hb, if_pos hn, hn]
    rfl

/-- A taken G leaves its operand in `pc`, to word 0 too (43_control.md R182, R183). -/
theorem pc_branchOrder_of_taken {s : State} (h : branchTaken s.config.gPolarity s.acc = true)
    (n : Addr) : (branchOrder n s).pc = n.toNat := by
  rcases branchOrder_cases n s with ⟨hb, -⟩ | ⟨-, -, e⟩ | ⟨-, rfl, e⟩
  · rw [h] at hb
    cases hb
  · rw [e]
    rfl
  · rw [e]
    rfl

/-- Settles O31: the branch to word 0 is the one that draws. -/
theorem branchToWordZeroDrawsScr : Obligations.BranchToWordZeroDrawsScr := by
  intro l s h
  have hbranch : branchOrder 0#10 s = branchTo s 0#10 := if_pos ((branchTaken_iff _ _).2 h)
  rw [exec_orderG, hbranch]
  rfl

/-! ### The sign bit of a reachable state -/

/-- A load writes no register (70_reset_and_hazards.md R265). -/
theorem loadTape_acc (s : State) (lines : List TapeLine) : (loadTape s lines).2.acc = s.acc :=
  loadTape_keeps (P := fun t => t.acc = s.acc) (fun _ _ _ _ _ _ _ h => h) (fun _ h => h) lines rfl

/-- No step sets the sign bit, and the host's other operations keep ACC or clear it (43_control.md R181). -/
theorem reachable_sign_clear {c : Config} {s : State} (h : Reachable c s) :
    s.acc.getMsbD 0 = false := by
  induction h with
  | built => exact BitVec.getMsbD_zero
  | step _ hstep ih => exact signBitStaysClear _ _ ih hstep
  | start _ hstart ih => exact hostStart_keeps signBitStaysClear (fun _ hs => hs) ih hstart
  | load lines _ ih => rw [loadTape_acc, ih]
  | reset _ _ => exact BitVec.getMsbD_zero
  | setStepMode _ _ ih | setDebugMode _ _ ih => exact ih

/-- Settles O46: the polarity is that of construction, and a clear sign bit takes the branch. -/
theorem reachableBranchesAreTaken : Obligations.ReachableBranchesAreTaken := by
  intro c s hs hpolarity n l
  have hconfig : s.config = c := (reachable_invOf hs).2
  have htaken : branchTaken s.config.gPolarity s.acc = true := by
    rw [branchTaken_iff, reachable_sign_clear hs, hconfig, hpolarity]
    rfl
  exact ⟨_, exec_orderG n l s, pc_branchOrder_of_taken htaken n⟩

/-! ### Z -/

/-- Z is its status and the completion (43_control.md R190). -/
theorem exec_orderZ (n : Addr) (l : Length) (s : State) :
    exec (.orderZ n l) s = .next (completed (s.setStatus .halted)) := rfl

/-- A machine whose run has ended is not admitted (40_engine.md R111, R128). -/
theorem not_admitted_of_ends {s : State} (h : s.status.ends = true) : s.admitted = false := by
  rw [State.admitted, h, Bool.not_true, Bool.and_false]

/-- Settles O32: Z leaves a Halted machine, and a call of one is refused. -/
theorem stopOrderHalts : Obligations.StopOrderHalts := by
  refine ⟨decodesAs_of_firstSymbol (c := .Z) rfl, fun n l s => ⟨exec_orderZ n l s, ?_⟩⟩
  intro t u fuel h
  rw [exec_orderZ] at h
  cases h
  obtain ⟨-, -, hrefused, -⟩ := admissionDecidesWhatRuns fuel (completed (s.setStatus .halted))
  obtain ⟨hstep, hstart⟩ := hrefused (not_admitted_of_ends rfl) u
  exact ⟨hstep, hstart, rfl⟩

end Sys2Proof.Machine
end

section
/-!
PROOFS. The output order (44_output.md): the symbol O makes of a field, O's two outcomes as equations of `exec`, and
the output along a step.
-/

namespace Sys2Proof.Machine

/-! ### The symbol of a field -/

section
variable {t : CodeTable} {v : Addr}

theorem outputSymbol_of_ge (h : 32 ≤ v.toNat) : outputSymbol t v = .error (.unknownCode (.field v)) :=
  if_pos h

theorem outputSymbol_of_none (hv : v.toNat < 32) (h : firstSymbol t (BitVec.ofNat 5 v.toNat) = none) :
    outputSymbol t v = .error (.unknownCode (.code (BitVec.ofNat 5 v.toNat))) := by
  rw [outputSymbol, if_neg (Nat.not_le.2 hv), h]

/-- O makes a symbol only of a field below 32, whose value is then the code (44_output.md R202). -/
theorem outputSymbol_eq_ok_iff {c : Symbol} :
    outputSymbol t v = .ok c ↔ v.toNat < 32 ∧ firstSymbol t (BitVec.ofNat 5 v.toNat) = some c := by
  rcases Nat.lt_or_ge v.toNat 32 with hv | hv
  · rw [outputSymbol, if_neg (Nat.not_le.2 hv)]
    cases firstSymbol t (BitVec.ofNat 5 v.toNat) <;> simp [hv]
  · simp [outputSymbol_of_ge hv, Nat.not_lt.2 hv]

end

/-! ### O -/

theorem exec_orderO (n : Addr) (l : Length) (s : State) :
    exec (.orderO n l) s = finish s (outputOrder n s) := rfl

section
variable {n : Addr} {s : State}

/-- A field without a symbol faults, and nothing is emitted (44_output.md R201). -/
theorem exec_orderO_of_error {f : Fault} (l : Length)
    (h : outputSymbol s.config.codeTable (s.addr n.toNat) = .error f) :
    exec (.orderO n l) s = .next (takeFault s f) := by
  rw [exec_orderO, outputOrder, State.operandValue, h]
  rfl

theorem exec_orderO_of_ok {c : Symbol} (l : Length)
    (h : outputSymbol s.config.codeTable (s.addr n.toNat) = .ok c) :
    exec (.orderO n l) s = .next (completed ((s.emit c).setStatus (statusAfterEmit s c))) := by
  rw [exec_orderO, outputOrder, State.operandValue, h]
  rfl

end

/-- Settles O33: the accessor's field is the ten bits read, and O has these three outcomes. -/
theorem outputOrderEmitsOrFaults : Obligations.OutputOrderEmitsOrFaults := by
  refine ⟨decodesAs_of_firstSymbol (c := .O) rfl, fun n l s =>
    ⟨s.addr n.toNat, memRead_addressField s n, fun hv => ?_, fun hv hnone => ?_, fun c rest hv hcons => ?_⟩⟩
  · exact exec_orderO_of_error l (outputSymbol_of_ge hv)
  · exact exec_orderO_of_error l (outputSymbol_of_none hv (by rw [firstSymbol, hnone]; rfl))
  · exact exec_orderO_of_ok l (outputSymbol_eq_ok_iff.2 ⟨hv, by rw [firstSymbol, hcons]; rfl⟩)

/-! ### The output along a step -/

/-- An order keeps the output, or it is O and appends the symbol of its operand's field (10_state.md R35). -/
theorem ExecEffect.output_cases {i : Instr} {s t : State} (h : ExecEffect i s t) :
    t.output = s.output ∨
    (i.symbol = some .O ∧ ∃ c, t.output = s.output ++ [c] ∧
      outputSymbol s.config.codeTable (s.addr i.operand.toNat) = .ok c) := by
  cases h with
  | emit n l c hi hc =>
    subst hi
    exact .inr ⟨rfl, c, rfl, hc⟩
  | _ => exact .inl rfl

/-- Settles O34: only an O emits, and the fetch before it keeps memory and table. -/
theorem outputGrowsOnlyByO : Obligations.OutputGrowsOnlyByO := by
  intro s t h
  rcases step_cases h with ⟨-, rfl⟩ | ⟨-, -, -, rfl⟩ | ⟨-, -, -, he⟩
  · exact .inl rfl
  · exact .inl rfl
  · rcases he.output_cases with hkept | ⟨hO, c, hgrown, hc⟩
    · exact .inl hkept
    · rw [operand_decodeWith] at hc
      obtain ⟨hv, hfirst⟩ := outputSymbol_eq_ok_iff.1 hc
      exact .inr ⟨(symbolAt_eq_of_decode rfl).trans hO, c, hgrown, _, hfirst, Nat.mod_eq_of_lt hv⟩

end Sys2Proof.Machine
end

section
/-!
PROOFS. Why a load fails (60_exceptions.md R222, R225, R231; 70_reset_and_hazards.md R264): the one inversion of a
load loop that fails, which names the line it stops at and what stopped it there.
-/

namespace Sys2Proof.Machine

/-- A line without a word fails with its own parse error: a parsed one has a code (60_exceptions.md R222, R225). -/
theorem parse_error_of_lineWord {t : CodeTable} {i : Nat} {line : TapeLine} {f : Fault}
    (h : lineWord t i line = .error f) :
    ∃ e, parseInstructionLine t line = .error e ∧ loadFault i e = f := by
  cases hp : parseInstructionLine t line with
  | ok r => exact absurd ⟨r, hp⟩ (not_parse_of_lineWord_error h)
  | error e =>
    rw [lineWord, hp] at h
    exact ⟨e, rfl, Except.error.inj h⟩

/-- Inversion of a failed load loop: it stops at a line that is no comment, for want of a word when the lines before
it fill memory, else because that line has no word (70_reset_and_hazards.md R262, R264). -/
theorem loadLines_failed {lines : List TapeLine} {i w j : Nat} {s : State} {f : Fault} (hw : w ≤ 1024)
    (h : (loadLines lines i w s).1 = .failed j f) :
    ∃ k line, j = i + k ∧ lines[k]? = some line ∧ isComment line = false ∧
      (if 1024 ≤ w + ((lines.take k).filter fun x => !isComment x).length then
        f = .outOfBounds .load 1024
      else lineWord s.config.codeTable j line = .error f) := by
  fun_induction loadLines lines i w s with
  | case1 => cases h
  | case2 i w s line lines hc ih =>
    obtain ⟨k, stop, hj, hstop, hcode, hf⟩ := ih hw h
    refine ⟨k + 1, stop, by omega, hstop, hcode, ?_⟩
    rwa [List.take_succ_cons, List.filter_cons_of_neg (by simp [hc])]
  | case3 i w s line lines hc hfull =>
    cases h
    obtain rfl : w = 1024 := Nat.le_antisymm hw hfull
    exact ⟨0, line, rfl, rfl, Bool.eq_false_iff.2 hc, rfl⟩
  | case4 i w s line lines hc hroom g hline =>
    cases h
    exact ⟨0, line, rfl, rfl, Bool.eq_false_iff.2 hc, Eq.mpr (if_neg hroom) hline⟩
  | case5 i w s line lines hc hroom r v hline ih =>
    obtain ⟨k, stop, hj, hstop, hcode, hf⟩ := ih (Nat.lt_of_not_le hroom) h
    refine ⟨k + 1, stop, by omega, hstop, hcode, ?_⟩
    rwa [List.take_succ_cons, List.filter_cons_of_pos (by simp [hc]), List.length_cons, ← Nat.add_assoc,
      Nat.add_right_comm]

/-- A load that fails was called in Idle, and reports what its loop reports (70_reset_and_hazards.md R260, R264). -/
theorem loadLines_failed_of_loadTape {s t : State} {lines : List TapeLine} {i : Nat} {f : Fault}
    (h : loadTape s lines = (.failed i f, t)) :
    s.status = .idle ∧ (loadLines lines 1 31 s).1 = .failed i f := by
  cases hs : s.status with
  | idle => exact ⟨rfl, by rw [← loadTape_report hs, h]⟩
  | running | halted | faulted | resetRequested =>
    rw [loadTape, hs] at h
    cases h

/-- Settles O54: from word 31 the lines before fill memory when they are 993, and a line without a word does not
parse. -/
theorem loadFaultsNameTheirLine : Obligations.LoadFaultsNameTheirLine := by
  intro s t lines i f h
  obtain ⟨-, hfailed⟩ := loadLines_failed_of_loadTape h
  obtain ⟨k, line, rfl, hline, -, hf⟩ := loadLines_failed (by decide) hfailed
  rw [Nat.add_sub_cancel_left]
  refine ⟨line, hline, ?_⟩
  split at hf
  · rwa [if_pos (by omega)]
  · rw [if_neg (by omega)]
    obtain ⟨e, he, rfl⟩ := parse_error_of_lineWord hf
    cases e with
    | unknownSymbol c => exact .inl ⟨c, he, rfl⟩
    | malformed p => exact .inr ⟨p, he, rfl⟩

end Sys2Proof.Machine
end

section
/-!
PROOFS. Reset and the two loaders (70_reset_and_hazards.md): the BootstrapLoader word by word, and from the load loop
what a tape load refuses, keeps, undoes and skips.
-/

namespace Sys2Proof.Machine

/-! ### O50: reset -/

/-- Settles O50: construction ends in the state that `reset()` rebuilds. -/
theorem resetRebuildsTheState : Obligations.ResetRebuildsTheState := by
  intro s
  rw [construct_eq_reset]
  exact ⟨rfl, rfl⟩

/-! ### O49: the BootstrapLoader -/

section
variable (s : State)

theorem word_bootstrapLoad (w : Nat) : (bootstrapLoad s).word w =
    if w < 31 then patternWord (romPattern s.config w) else s.word w :=
  word_bootstrapWords (by decide) s w

theorem bootstrapLoad_config : (bootstrapLoad s).config = s.config := bootstrapWords_config 31 s

theorem tag_bootstrapLoad (w : Nat) : (bootstrapLoad s).tag w =
    if w < 31 then tagOfWord s.config.codeTable (patternWord (romPattern s.config w)) else s.tag w :=
  tag_bootstrapWords (by decide) s w

/-- The bits of a bootstrap word are the characters of its pattern (70_reset_and_hazards.md R252). -/
theorem bit_bootstrapLoad {w k : Nat} {p : String} (hp : s.config.bootRom[w]? = some p) (hw : w < 31)
    (hk : k < 17) : (bootstrapLoad s).bit (17 * w + k) = ((patternChars p)[k]? == some '1') := by
  have hpattern : romPattern s.config w = p := by rw [romPattern, List.getD_eq_getElem?_getD, hp]; rfl
  rw [bit_of_word _ _ hk, word_bootstrapLoad, if_pos hw, hpattern]
  exact patternBits_getMsbD _ _ _ hk

/-- A second run writes the same words (70_reset_and_hazards.md R255). -/
theorem word_bootstrapLoad_twice (w : Nat) :
    (bootstrapLoad (bootstrapLoad s)).word w = (bootstrapLoad s).word w := by
  rw [word_bootstrapLoad, bootstrapLoad_config, word_bootstrapLoad]
  split <;> rfl

end

/-- Settles O49, word by word. -/
theorem bootstrapWritesItsPatterns : Obligations.BootstrapWritesItsPatterns := by
  intro s
  refine ⟨fun w k p => bit_bootstrapLoad s, fun w hw => ?_, fun w hw => ⟨?_, ?_⟩,
    word_bootstrapLoad_twice s, bootstrapWords_frame 31 s⟩
  · rw [tag_bootstrapLoad, if_pos hw, tagOfWord_eq, State.opc, State.addr, word_bootstrapLoad, if_pos hw]
  · rw [word_bootstrapLoad, if_neg (Nat.not_lt.2 hw)]
  · rw [tag_bootstrapLoad, if_neg (Nat.not_lt.2 hw)]

/-! ### O51 and O55: what a load refuses and keeps -/

section
variable {s : State}

theorem loadTape_of_idle (h : s.status = .idle) (lines : List TapeLine) :
    loadTape s lines = settleLoad s (loadLines lines 1 31 s) := by
  rw [loadTape, h]
  rfl

/-- Outside Idle a load does nothing (70_reset_and_hazards.md R260). -/
theorem loadTape_of_not_idle (h : s.status ≠ .idle) (lines : List TapeLine) :
    loadTape s lines = (.refused, s) := by
  unfold loadTape
  split
  · contradiction
  all_goals rfl

/-- The load loop itself refuses nothing (70_reset_and_hazards.md R262 to R264). -/
theorem loadLines_ne_refused (lines : List TapeLine) (i w : Nat) (s : State) :
    (loadLines lines i w s).1 ≠ .refused := by
  fun_induction loadLines lines i w s with
  | case1 | case3 | case4 => nofun
  | case2 _ _ _ _ _ _ ih => exact ih
  | case5 _ _ _ _ _ _ _ _ _ _ ih => exact ih

end

/-- Settles O51: only the test of the status refuses. -/
theorem loadTapeOutsideIdleIsRefused : Obligations.LoadTapeOutsideIdleIsRefused := by
  intro s lines
  by_cases hs : s.status = .idle
  · rw [loadTape_report hs]
    exact ⟨iff_of_false (loadLines_ne_refused lines 1 31 s) (not_not_intro hs), (absurd hs ·)⟩
  · rw [loadTape_of_not_idle hs]
    exact ⟨iff_of_true rfl hs, fun _ => rfl⟩

/-- `t` differs from `s` at most in memory, tags and `programLoaded` (70_reset_and_hazards.md R265). -/
def LoaderFrame (s t : State) : Prop :=
  t = { s with mem := t.mem, tags := t.tags, programLoaded := t.programLoaded }

theorem LoaderFrame.storeLine {s t : State} (h : LoaderFrame s t) (w : Nat) (r : LineRecord)
    (v : Word) : LoaderFrame s (storeLine t w r v) := by
  rw [h]
  rfl

theorem LoaderFrame.programLoaded {s t : State} (h : LoaderFrame s t) :
    LoaderFrame s { t with programLoaded := true } := by
  rw [h]
  rfl

/-- Settles O55: a stored line and the end of a load write within the frame. -/
theorem loadTapeWritesNoRegister : Obligations.LoadTapeWritesNoRegister := fun s lines =>
  loadTape_keeps (P := LoaderFrame s) (fun _ _ w _ r v _ h => h.storeLine w r v)
    (fun _ h => h.programLoaded) lines rfl

/-! ### O53: what a failed load leaves -/

section
variable {s t : State} {lines : List TapeLine} {i w j : Nat} {f : Fault}

/-- A load loop that fails has loaded the lines before the failing one, but for the mark of a loaded program
(70_reset_and_hazards.md R263, R264). -/
theorem loadLines_before_failed (h : (loadLines lines i w s).1 = .failed j f) :
    ∃ k, j = i + k ∧ loadLines (lines.take k) i w s =
      (.loaded, { (loadLines lines i w s).2 with programLoaded := true }) := by
  fun_induction loadLines lines i w s with
  | case1 => cases h
  | case2 i w s line lines hc ih =>
    obtain ⟨k, hj, hk⟩ := ih h
    refine ⟨k + 1, by omega, ?_⟩
    rwa [List.take_succ_cons, loadLines, if_pos hc]
  | case3 | case4 =>
    cases h
    exact ⟨0, rfl, rfl⟩
  | case5 i w s line lines hc hroom r v hline ih =>
    obtain ⟨k, hj, hk⟩ := ih h
    refine ⟨k + 1, by omega, ?_⟩
    rw [List.take_succ_cons, loadLines, if_neg hc, if_neg hroom, hline]
    exact hk

/-- The lines before the failing one stand in memory (70_reset_and_hazards.md R264). -/
theorem loadLines_failed_tapeStands (hw : w ≤ 1024) (h : (loadLines lines i w s).1 = .failed j f) :
    TapeStands s (loadLines lines i w s).2 w
      ((lines.take (j - i)).filter fun x => !isComment x) := by
  obtain ⟨k, rfl, hk⟩ := loadLines_before_failed h
  have hstands := loadLines_tapeStands (s := s) (lines.take k) i hw (by rw [hk])
  rw [hk] at hstands
  rw [Nat.add_sub_cancel_left]
  exact ⟨hstands.line, hstands.rest⟩

theorem loadLines_failed_programLoaded (h : (loadLines lines i w s).1 = .failed j f) :
    (loadLines lines i w s).2.programLoaded = s.programLoaded := by
  fun_induction loadLines lines i w s with
  | case1 => cases h
  | case2 _ _ _ _ _ _ ih => exact ih h
  | case3 | case4 => rfl
  | case5 _ _ _ _ _ _ _ _ _ _ ih => exact ih h

/-- `LOAD_ATOMIC` decides what a failed load leaves (70_reset_and_hazards.md R264). -/
theorem settleLoad_failed_cases {r : LoadReport × State} (h : settleLoad s r = (.failed i f, t)) :
    (s.config.loadAtomic = .atomic ∧ t = s) ∨ (s.config.loadAtomic = .partialLoad ∧ t = r.2) := by
  unfold settleLoad at h
  split at h
  · rename_i hatomic
    cases h
    exact .inl ⟨hatomic, rfl⟩
  · rename_i hne
    subst h
    cases hmode : s.config.loadAtomic with
    | atomic => exact absurd hmode (hne i f rfl)
    | partialLoad => exact .inr ⟨rfl, rfl⟩

theorem loadTape_failed_cases (h : loadTape s lines = (.failed i f, t)) :
    (s.config.loadAtomic = .atomic ∧ t = s) ∨
    (s.config.loadAtomic = .partialLoad ∧ t = (loadLines lines 1 31 s).2) := by
  obtain ⟨hs, -⟩ := loadLines_failed_of_loadTape h
  rw [loadTape_of_idle hs] at h
  exact settleLoad_failed_cases h

/-- The fault of a failed load is one of three, and a parse fault names the failing line (60_exceptions.md R222,
R225; 70_reset_and_hazards.md R264). -/
theorem loadTape_failed_fault (h : loadTape s lines = (.failed i f, t)) :
    (∃ c, f = .unknownInstruction i c) ∨ (∃ p, f = .malformedInstructionLine i p) ∨
      f = .outOfBounds .load 1024 := by
  obtain ⟨line, -, hf⟩ := loadFaultsNameTheirLine s t lines i f h
  split at hf
  · exact .inr (.inr hf)
  · rcases hf with ⟨c, -, hc⟩ | ⟨p, -, hp⟩
    · exact .inl ⟨c, hc⟩
    · exact .inr (.inl ⟨p, hp⟩)

end

/-- Settles O53: an atomic load leaves the state it was called in, a partial one the state of its loop. -/
theorem failedLoadStopsAtItsLine : Obligations.FailedLoadStopsAtItsLine := by
  intro s t lines i f h
  obtain ⟨-, hfailed⟩ := loadLines_failed_of_loadTape h
  have hstands := loadLines_failed_tapeStands (by decide) hfailed
  obtain ⟨hpos, hstop⟩ : 1 ≤ i ∧ ∃ line, lines[i - 1]? = some line ∧ isComment line = false := by
    obtain ⟨k, line, rfl, hline, hcode, -⟩ := loadLines_failed (by decide) hfailed
    rw [Nat.add_sub_cancel_left]
    exact ⟨Nat.le_add_right 1 k, line, hline, hcode⟩
  refine ⟨hpos, hstop, loadTape_failed_fault h, ?_⟩
  rcases loadTape_failed_cases h with ⟨hmode, rfl⟩ | ⟨hmode, rfl⟩
  · exact ⟨rfl, fun _ => rfl, (nomatch hmode.symm.trans ·)⟩
  · refine ⟨loadLines_failed_programLoaded hfailed, (nomatch hmode.symm.trans ·), fun _ before hbefore => ?_⟩
    subst hbefore
    exact ⟨hstands.line, hstands.rest⟩

/-! ### O56: comment lines -/

/-- Two loads that end in the same state, both with success or both with a failure, of whichever lines. -/
inductive SameLoad : LoadReport × State → LoadReport × State → Prop where
  | loaded (t : State) : SameLoad (.loaded, t) (.loaded, t)
  | failed (i j : Nat) (f g : Fault) (t : State) : SameLoad (.failed i f, t) (.failed j g, t)

/-- The number of a line changes only the fault it fails with (60_exceptions.md R222, R225). -/
theorem lineWord_ok_renumber {t : CodeTable} {i : Nat} {line : TapeLine} {p : LineRecord × Word}
    (h : lineWord t i line = .ok p) (j : Nat) : lineWord t j line = .ok p :=
  lineWord_of_parse (parse_of_lineWord h).1 (parse_of_lineWord h).2

/-- The load loop skips comments: without them, and from any other line number on, it ends alike
(70_reset_and_hazards.md R261). -/
theorem loadLines_sameLoad (lines : List TapeLine) (i j w : Nat) (s : State) :
    SameLoad (loadLines lines i w s) (loadLines (lines.filter fun x => !isComment x) j w s) := by
  fun_induction loadLines lines i w s generalizing j with
  | case1 => exact .loaded _
  | case2 i w s line lines hc ih =>
    rw [List.filter_cons_of_neg (by simp [hc])]
    exact ih j
  | case3 i w s line lines hc hfull =>
    rw [List.filter_cons_of_pos (by simp [hc]), loadLines, if_neg hc, if_pos hfull]
    exact .failed ..
  | case4 i w s line lines hc hroom f hline =>
    rw [List.filter_cons_of_pos (by simp [hc]), loadLines, if_neg hc, if_neg hroom]
    cases hj : lineWord s.config.codeTable j line with
    | error g => exact .failed ..
    | ok p => cases (lineWord_ok_renumber hj i).symm.trans hline
  | case5 i w s line lines hc hroom r v hline ih =>
    rw [List.filter_cons_of_pos (by simp [hc]), loadLines, if_neg hc, if_neg hroom,
      lineWord_ok_renumber hline j]
    exact ih (j + 1)

/-- Loads that end alike are kept or undone alike (70_reset_and_hazards.md R264). -/
theorem SameLoad.settle {r r' : LoadReport × State} (h : SameLoad r r') (s : State) :
    SameLoad (settleLoad s r) (settleLoad s r') := by
  cases h with
  | loaded t => exact .loaded t
  | failed i j f g t =>
    unfold settleLoad
    cases s.config.loadAtomic with
    | atomic => exact .failed i j f g s
    | partialLoad => exact .failed i j f g t

theorem SameLoad.state_eq {r r' : LoadReport × State} (h : SameLoad r r') : r.2 = r'.2 := by
  cases h <;> rfl

theorem SameLoad.loaded_iff {r r' : LoadReport × State} (h : SameLoad r r') :
    r.1 = .loaded ↔ r'.1 = .loaded := by
  cases h with
  | loaded => exact Iff.rfl
  | failed => exact iff_of_false nofun nofun

/-- Settles O56: outside Idle neither load does anything, and in Idle their loops end alike. -/
theorem commentLinesAreSkipped : Obligations.CommentLinesAreSkipped := by
  intro s lines
  by_cases hs : s.status = .idle
  · rw [loadTape_of_idle hs, loadTape_of_idle hs]
    have hsame := (loadLines_sameLoad lines 1 1 31 s).settle s
    exact ⟨hsame.state_eq, hsame.loaded_iff⟩
  · rw [loadTape_of_not_idle hs, loadTape_of_not_idle hs]
    exact ⟨rfl, Iff.rfl⟩

end Sys2Proof.Machine
end
